-- ==== Sys2Proof/Word.lean ====
section
/-! DEFINITION. The word types of the block (00_scope.md section 5.1, R5): bytes, the 16-bit quantities of the wire,
the 5-bit cursor and the 17-bit total length. All quantities are unsigned. -/

namespace Sys2Proof

/-- A byte of the stream and of the buffer (R5, R80). -/
abbrev Byte := BitVec 8

/-- An unsigned 16-bit quantity: declared length, checksum, sum, decoded field (R5, R52). -/
abbrev Word16 := BitVec 16

/-- The width of `cursor`, 0 to 31 (R22, the spec's decision D6). -/
abbrev Cursor := BitVec 5

/-- The width of `expectedLength`, which holds `L + 4` for any 16-bit `L` exactly (R25, the spec's decision D6). -/
abbrev TotalLength := BitVec 17

end Sys2Proof
end

