-- ==== Sys2Proof/Config.lean ====
section
/-! DEFINITION. The implementation parameters of 00_scope.md R5, and the one parameter the spec leaves open,
`FIELD_RESET` (R5 last row, 92_eei_decisions.md D9, 93_implementation_defined.md U2). -/

namespace Sys2Proof

/-- The nine decoded-field registers, each unsigned 16 bits (10_state.md R27). -/
structure DecodedFields where
  pm1_0  : Word16
  pm2_5  : Word16
  pm10   : Word16
  bin0_3 : Word16
  bin0_5 : Word16
  bin1_0 : Word16
  bin2_5 : Word16
  bin5_0 : Word16
  bin10  : Word16
  deriving DecidableEq, Repr, Inhabited

namespace Config

/-- `CAPACITY`: the number of byte slots of the buffer (R5, R6). -/
@[simp] abbrev capacity : Nat := 32

/-- `SYNC0`: the first synchronization byte (R5). -/
@[simp] abbrev sync0 : Byte := 0x42

/-- `SYNC1`: the second synchronization byte (R5). -/
@[simp] abbrev sync1 : Byte := 0x4D

/-- `HEADER_LEN`: two sync bytes and two length bytes, not counted by the declared length (R5). -/
@[simp] abbrev headerLen : Nat := 4

/-- `LEN_OFF`: the offset of the big-endian declared length (R5). -/
@[simp] abbrev lenOff : Nat := 2

/-- `CKSUM_LEN`: the checksum is the last two bytes of a frame (R5). -/
@[simp] abbrev cksumLen : Nat := 2

/-- `VARIANT_B_LEN`: the total length that selects VariantB, a literal of its own (R5, R6, D20). -/
@[simp] abbrev variantBLen : Nat := 32

/-- `FIELD_RESET`: the nine fields after reset. OPEN in the spec (R5, R32, D9, U2), so a constant without a body: no proof
can know a value of it, and a claim that mentions it holds whatever it is. DESIGN CHOICE, safe (log 1). -/
opaque fieldReset : DecodedFields

end Config

end Sys2Proof
end

