-- ==== Sys2Proof/Machine/State.lean ====
section
/-! DEFINITION. The state of one decoder, 10_state.md R20 (the block's registers, complete) with the ports of R34, its value
after RESET, and the ways a step can end without a next state. -/

namespace Sys2Proof.Machine

/-- `sensorVariant` (10_state.md R26). -/
inductive Variant where
  | unknown
  | variantA
  | variantB
  deriving DecidableEq, Repr

/-- The samples on the input ports at one step (10_state.md R34). -/
structure PortInput where
  rst     : Bool
  inValid : Bool
  inByte  : Byte
  deriving DecidableEq, Repr

/-- The buffer as sparse memory: (slot, byte) pairs, slots strictly rising below 32, no byte 0; a slot that is not listed
reads 0, as the buffer is "zero-initialized" (10_state.md R21, R29, R32). `Memory.wf` says the form. -/
abbrev Memory := List Host.Cell

/-- One decoder instance: the registers of R20 and nothing else of the block's, with what the environment drives on its input
ports (R34). What an `offer` returns is no part of it (R24): see `Ran` and `returns`. -/
structure State where
  /-- `buf[0..31]` (R21). -/
  buf            : Memory
  /-- `cursor` (R22). -/
  cursor         : Cursor
  /-- `expectedLength` (R25). -/
  expectedLength : TotalLength
  /-- `sensorVariant` (R26). -/
  sensorVariant  : Variant
  /-- The nine decoded fields (R27). -/
  fields         : DecodedFields
  /-- The samples on the input ports at this and later steps, the next one first (R34; the model's own, log 2). -/
  input          : List PortInput
  deriving DecidableEq, Repr

/-- Why the machine stops with a fault: never. "Nothing in the block faults, traps, hangs or gets stuck" (00_scope.md R9), and a
model "must not invent a fault" (93_implementation_defined.md U1). Nobody raises one; safe (log 18). -/
inductive Fault where
  deriving DecidableEq, Repr

/-- Why a step has no meaning. -/
inductive Refusal where
  /-- Raised by `exec`'s arm of an instruction that has no meaning yet; safe. No arm raises it now. -/
  | notModelled (mnemonic : String)
  /-- Raised by OFFER.BODY in a state with `expectedLength > 32` or with no next slot: the rules give it no meaning and a model
  "should refuse" it (93_implementation_defined.md U1, D19). No reachable state raises it; safe (log 6). -/
  | outsideReachableStates
  /-- Raised by CHKSUM, MEASURE and OFFER.LAST when the checksum field they read would not lie in the buffer (`expectedLength`
  below 2 or above 32), and by BE16 with an index above 30 (R140 precondition, R150 operands, U1). No step from a reachable
  state raises it; safe (log 7). -/
  | bufferIndexOutOfRange
  deriving DecidableEq, Repr

/-- The state after RESET (10_state.md R32, 60_exceptions.md R183, 70_reset_and_hazards.md R200): buffer zero, `cursor` 0,
`expectedLength` 0, `sensorVariant` Unknown, fields at the open `FIELD_RESET`. Nothing is driven on the ports (log 2). -/
def State.reset : State where
  buf := []
  cursor := 0
  expectedLength := 0
  sensorVariant := .unknown
  fields := Config.fieldReset
  input := []

end Sys2Proof.Machine
end

