-- ==== Sys2Proof/Machine/Ops.lean ====
section
/-! DEFINITION. The named operations over the buffer and the registers, and `raise`, the block's one way of taking an
exception (60_exceptions.md R176). There is no return from one (R180): the next `offer` starts from idle. -/

namespace Sys2Proof.Machine

/-- The outcome of one step of this machine. -/
abbrev Step := Host.Outcome State Fault Refusal

/-! ### What an operation returns: an output of the step, not a register (10_state.md R24) -/

/-- The five results of an `offer` (30_encoding.md R92, 60_exceptions.md R170). -/
inductive Result where
  | pending
  | success
  | frameTooLarge
  | checksumFailed
  | invalidFrameLength
  deriving DecidableEq, Repr

/-- What an operation returns. -/
inductive Returned where
  /-- No value: RESET, CLASSIFY, EXTRACT.PM, EXTRACT.BINS, a refused operation, and a step without an operation. -/
  | nothing
  /-- An `offer` or MEASURE: a result. It drives the `result` port (R34). -/
  | result (r : Result)
  /-- CHKSUM: whether the sum equals the checksum field (R141). -/
  | check (ok : Bool)
  /-- BE16: the 16-bit value read (R150). -/
  | word (v : Word16)
  deriving DecidableEq, Repr

/-- An operation that ran: the state it leaves, and beside it what it returned, which no state holds (R24, log 3). -/
structure Ran where
  state    : State
  returned : Returned
  deriving DecidableEq, Repr

/-- An operation on a state: it runs, or it has no meaning there. -/
abbrev Op := Except Refusal Ran

/-- The outcome as the host's interface takes it: the state alone. -/
def Op.toStep : Op → Step
  | .ok x => .next x.state
  | .error r => .refused r

/-- What it returned. -/
def Op.returned : Op → Returned
  | .ok x => x.returned
  | .error _ => .nothing

/-! ### The buffer (20_memory.md) -/

/-- The byte at a slot; an unlisted slot reads 0 (R21 "zero-initialized"). -/
def Memory.read : Memory → Nat → Byte
  | [], _ => 0
  | (k, x) :: m, a => if k = a then x else Memory.read m a

/-- Puts a cell before the first one with a greater address. -/
def Memory.insert : Memory → Nat → Byte → Memory
  | [], a, v => [(a, v)]
  | (k, x) :: m, a, v => if a < k then (a, v) :: (k, x) :: m else (k, x) :: Memory.insert m a v

/-- `MemWrite(a, 1, v)` (00_scope.md section 5.2). Writing 0 removes the cell, which keeps the form canonical. -/
def Memory.write (m : Memory) (a : Nat) (v : Byte) : Memory :=
  let rest := m.filter fun c => c.1 ≠ a
  if v = 0 then rest else Memory.insert rest a v

/-- The canonical form: slots strictly rising and below 32, no byte equal to what an unlisted slot reads as. -/
abbrev Memory.wf (m : Memory) : Prop :=
  m.Pairwise (fun c d => c.1 < d.1) ∧ ∀ c ∈ m, c.1 < Config.capacity ∧ c.2 ≠ 0

/-! ### The registers: one named update each -/

/-- `buf[a] <- b` (R50). -/
def State.storeByte (s : State) (a : Nat) (b : Byte) : State := { s with buf := s.buf.write a b }

/-- `cursor <- c` (R22). -/
def State.setCursor (s : State) (c : Cursor) : State := { s with cursor := c }

/-- `expectedLength <- n` (R25). -/
def State.setExpectedLength (s : State) (n : TotalLength) : State := { s with expectedLength := n }

/-- `sensorVariant <- v` (R26). -/
def State.setVariant (s : State) (v : Variant) : State := { s with sensorVariant := v }

/-- Writes decoded fields (R27). -/
def State.setFields (s : State) (f : DecodedFields) : State := { s with fields := f }

/-- Ends an operation in this state, with what it returns. -/
def State.answer (s : State) (r : Returned) : Op := .ok { state := s, returned := r }

/-- `return R` (00_scope.md section 5.3). -/
def State.finish (s : State) (r : Result) : Op := s.answer (.result r)

/-- TAKING AN EXCEPTION: `raise R(info)` is `cursor <- 0`, then `return R`; nothing is saved and no control goes anywhere
(60_exceptions.md R176, R179). -/
def State.raise (s : State) (r : Result) : Op := (s.setCursor 0).finish r

/-- Construction (60_exceptions.md R183): writes all state of the block; the input ports are not the block's to write. RESET
returns no result code. -/
def State.construct (s : State) : State := { State.reset with input := s.input }

end Sys2Proof.Machine
end

