-- ==== Sys2Proof/Machine/Operands.lean ====
section
/-! DEFINITION. Every way an operand is formed from the buffer (20_memory.md R51, R62): the big-endian 16-bit read, the
declared and total length, the end-relative checksum field, and the sweep of the sum. -/

namespace Sys2Proof.Machine

/-- `(byte[0] << 8) | byte[1]`, the earlier byte the more significant (20_memory.md R52, 43_extract.md R150). -/
def be16 (hi lo : Byte) : Word16 := (hi.zeroExtend 16 <<< 8) ||| lo.zeroExtend 16

/-- `MemRead(i, 2)` (R52, R150). -/
def Memory.readBe16 (m : Memory) (i : Nat) : Word16 := be16 (m.read i) (m.read (i + 1))

/-- Two adjacent slots starting at `i` lie in the buffer (20_memory.md R54). -/
abbrev pairInBuffer (i : Nat) : Prop := i + 1 < Config.capacity

/-- The declared length, bytes 2 and 3 (30_encoding.md R86). -/
def declaredLength (m : Memory) : Word16 := m.readBe16 Config.lenOff

/-- `zext_17(declaredLength) + 4`, exact (30_encoding.md R86, 41_length_buffer.md R121, R126; D6). -/
def totalLength (l : Word16) : TotalLength := l.zeroExtend 17 + BitVec.ofNat 17 Config.headerLen

/-- The checksum field `{buf[T-2], buf[T-1]}` (30_encoding.md R87). -/
def checksumField (m : Memory) (T : Nat) : Word16 := m.readBe16 (T - Config.cksumLen)

/-- The 16-bit wrapping sum of the `n` bytes from slot 0 on (42_checksum.md R141, R142). -/
def sumBytes (m : Memory) : Nat → Word16
  | 0 => 0
  | n + 1 => sumBytes m n + (m.read n).zeroExtend 16

end Sys2Proof.Machine
end

