-- ==== Sys2Proof/Machine/Flags.lean ====
section
/-! DEFINITION. The block has no flags and no condition codes (10_state.md R24). What stands in their place: the conditions
the rules test, and the numeric codes of the two enumerated outputs (30_encoding.md R92, R93). -/

namespace Sys2Proof.Machine

/-- `expectedLength > 32`: the frame does not fit (41_length_buffer.md R121). -/
def exceedsCapacity (e : TotalLength) : Bool := decide (e.toNat > Config.capacity)

/-- `expectedLength == 32`: the frame is a VariantB frame (43_extract.md R151). -/
def isVariantBLength (e : TotalLength) : Bool := decide (e.toNat = Config.variantBLen)

/-- The checksum field and the bytes before it lie in the buffer: `2 <= T <= 32` (U1; weaker than the precondition of R140). -/
abbrev checksumInBuffer (e : TotalLength) : Prop := Config.cksumLen ≤ e.toNat ∧ e.toNat ≤ Config.capacity

/-- CHKSUM's test: the sum of the bytes before the checksum field equals the field (42_checksum.md R141). -/
def checksumMatches (m : Memory) (T : Nat) : Bool := sumBytes m (T - Config.cksumLen) == checksumField m T

/-- The port code of a result (R92, D3). -/
def Result.code : Result → BitVec 3
  | .pending => 0
  | .success => 1
  | .frameTooLarge => 2
  | .checksumFailed => 3
  | .invalidFrameLength => 4

/-- The three error results (60_exceptions.md R170). -/
def Result.isError : Result → Bool
  | .pending => false
  | .success => false
  | .frameTooLarge => true
  | .checksumFailed => true
  | .invalidFrameLength => true

/-- The port code of a variant (R93, D4). -/
def Variant.code : Variant → BitVec 2
  | .unknown => 0
  | .variantA => 1
  | .variantB => 2

end Sys2Proof.Machine
end

