-- ==== Sys2Proof/Machine/Extract.lean ====
section
/-! DEFINITION. The fixed-width integer field extractor: BE16, CLASSIFY, EXTRACT.PM, EXTRACT.BINS (43_extract.md). -/

namespace Sys2Proof.Machine

/-- R151: the test is against the one total length 32; every other is VariantA. -/
def State.classify (s : State) : State :=
  s.setVariant (if isVariantBLength s.expectedLength then .variantB else .variantA)

/-- R152: the three primary fields from offsets 4, 6, 8, whatever the frame's length (R155). -/
def State.extractPm (s : State) : State :=
  s.setFields { s.fields with
    pm1_0 := s.buf.readBe16 4
    pm2_5 := s.buf.readBe16 6
    pm10 := s.buf.readBe16 8 }

/-- R153: the six size-bin fields from offsets 16 to 26. -/
def State.extractBins (s : State) : State :=
  s.setFields { s.fields with
    bin0_3 := s.buf.readBe16 16
    bin0_5 := s.buf.readBe16 18
    bin1_0 := s.buf.readBe16 20
    bin2_5 := s.buf.readBe16 22
    bin5_0 := s.buf.readBe16 24
    bin10 := s.buf.readBe16 26 }

/-- BE16 (R150): returns the 16-bit value at slots `i`, `i + 1`; writes nothing. An index above 30 is no operand of it. -/
def runBe16 (i : Nat) (s : State) : Op :=
  if pairInBuffer i then s.answer (.word (s.buf.readBe16 i)) else .error .bufferIndexOutOfRange

/-- The state BE16 leaves. -/
def execBe16 (i : Nat) (s : State) : Step := (runBe16 i s).toStep

/-- CLASSIFY (R151). -/
def runClassify (s : State) : Op := s.classify.answer .nothing

/-- The state CLASSIFY leaves. -/
def execClassify (s : State) : Step := (runClassify s).toStep

/-- EXTRACT.PM (R152). -/
def runExtractPm (s : State) : Op := s.extractPm.answer .nothing

/-- The state EXTRACT.PM leaves. -/
def execExtractPm (s : State) : Step := (runExtractPm s).toStep

/-- EXTRACT.BINS (R153). -/
def runExtractBins (s : State) : Op := s.extractBins.answer .nothing

/-- The state EXTRACT.BINS leaves. -/
def execExtractBins (s : State) : Step := (runExtractBins s).toStep

end Sys2Proof.Machine
end

