-- ==== Sys2Proof/Machine/Checksum.lean ====
section
/-! DEFINITION. The measurement procedure and the checksum validator: MEASURE and CHKSUM (42_checksum.md). -/

namespace Sys2Proof.Machine

/-- Measurement steps 4 to 6 (R140): classify, extract, and the six bins only for VariantB. -/
def State.decodeFrame (s : State) : State :=
  let p := s.classify.extractPm
  if p.sensorVariant = .variantB then p.extractBins else p

/-- The measurement procedure (R140), shared by MEASURE and OFFER.LAST: on a checksum mismatch nothing is written. -/
def measureFrame (s : State) : Op :=
  if checksumInBuffer s.expectedLength then
    if checksumMatches s.buf s.expectedLength.toNat then s.decodeFrame.finish .success else s.finish .checksumFailed
  else .error .bufferIndexOutOfRange

/-- CHKSUM (R141): returns whether the sum equals the checksum field; writes nothing. -/
def runChksum (s : State) : Op :=
  if checksumInBuffer s.expectedLength then s.answer (.check (checksumMatches s.buf s.expectedLength.toNat))
  else .error .bufferIndexOutOfRange

/-- The state CHKSUM leaves. -/
def execChksum (s : State) : Step := (runChksum s).toStep

/-- MEASURE (R140). -/
def runMeasure (s : State) : Op := measureFrame s

/-- The state MEASURE leaves. -/
def execMeasure (s : State) : Step := (runMeasure s).toStep

end Sys2Proof.Machine
end

