-- ==== Sys2Proof/Machine/Control.lean ====
section
/-! DEFINITION. The control operation RESET (60_exceptions.md R183). It is the only one (R184). -/

namespace Sys2Proof.Machine

/-- RESET (R183): construction, at any step, discarding any attempt in progress and every decoded value. -/
def runReset (s : State) : Op := s.construct.answer .nothing

/-- The state RESET leaves. -/
def execReset (s : State) : Step := (runReset s).toStep

end Sys2Proof.Machine
end

