-- ==== Sys2Proof/Machine/Length.lean ====
section
/-! DEFINITION. The length-bounded buffer with cursor: OFFER.LENH, OFFER.LENL, OFFER.OVER, OFFER.LAST, OFFER.BODY
(41_length_buffer.md). -/

namespace Sys2Proof.Machine

/-- OFFER.LENH (R120): store at slot 2; `cursor` 3; Pending. -/
def runOfferLenh (b : Byte) (s : State) : Op :=
  ((s.storeByte 2 b).setCursor 3).finish .pending

/-- The state OFFER.LENH leaves. -/
def execOfferLenh (b : Byte) (s : State) : Step := (runOfferLenh b s).toStep

/-- R121 after the store: `expectedLength` from the two bytes at 2 and 3, written before the size test (D7). -/
def State.resolveLength (s : State) : State := s.setExpectedLength (totalLength (declaredLength s.buf))

/-- OFFER.LENL (R121): store at slot 3; resolve the length; FrameTooLarge above 32, else `cursor` 4 and Pending. -/
def runOfferLenl (b : Byte) (s : State) : Op :=
  let u := (s.storeByte 3 b).resolveLength
  if exceedsCapacity u.expectedLength then u.raise .frameTooLarge else (u.setCursor 4).finish .pending

/-- The state OFFER.LENL leaves. -/
def execOfferLenl (b : Byte) (s : State) : Step := (runOfferLenl b s).toStep

/-- OFFER.OVER (R122): store at `cursor`; InvalidFrameLength. -/
def runOfferOver (b : Byte) (s : State) : Op :=
  (s.storeByte s.cursor.toNat b).raise .invalidFrameLength

/-- The state OFFER.OVER leaves. -/
def execOfferOver (b : Byte) (s : State) : Step := (runOfferOver b s).toStep

/-- OFFER.LAST (R123): store at `cursor`; `cursor` 0; then the measurement, whose result it returns. -/
def runOfferLast (b : Byte) (s : State) : Op :=
  measureFrame ((s.storeByte s.cursor.toNat b).setCursor 0)

/-- The state OFFER.LAST leaves. -/
def execOfferLast (b : Byte) (s : State) : Step := (runOfferLast b s).toStep

/-- OFFER.BODY (R124): store at `cursor`; `cursor + 1`; Pending. With `expectedLength > 32`, or in the last slot, it would run
out of the buffer: such states have no meaning and are refused (U1, log 6). -/
def runOfferBody (b : Byte) (s : State) : Op :=
  if s.expectedLength.toNat ≤ Config.capacity ∧ s.cursor.toNat + 1 < Config.capacity then
    ((s.storeByte s.cursor.toNat b).setCursor (s.cursor + 1)).finish .pending
  else .error .outsideReachableStates

/-- The state OFFER.BODY leaves. -/
def execOfferBody (b : Byte) (s : State) : Step := (runOfferBody b s).toStep

end Sys2Proof.Machine
end

