-- ==== Sys2Proof/Machine/Sync.lean ====
section
/-! DEFINITION. The synchronization detector: OFFER.SYNC1 and OFFER.SYNC2 (40_sync.md). -/

namespace Sys2Proof.Machine

/-- OFFER.SYNC1 (R110): store at slot 0; 0x42 moves to 1, every other byte holds 0; Pending. -/
def runOfferSync1 (b : Byte) (s : State) : Op :=
  ((s.storeByte 0 b).setCursor (if b = Config.sync0 then 1 else 0)).finish .pending

/-- The state OFFER.SYNC1 leaves. -/
def execOfferSync1 (b : Byte) (s : State) : Step := (runOfferSync1 b s).toStep

/-- OFFER.SYNC2 (R111): store at slot 1; 0x4D moves to 2, every other byte aborts to 0 and is consumed; Pending. -/
def runOfferSync2 (b : Byte) (s : State) : Op :=
  ((s.storeByte 1 b).setCursor (if b = Config.sync1 then 2 else 0)).finish .pending

/-- The state OFFER.SYNC2 leaves. -/
def execOfferSync2 (b : Byte) (s : State) : Step := (runOfferSync2 b s).toStep

end Sys2Proof.Machine
end

