-- ==== Sys2Proof/Syntax.lean ====
section
/-! DEFINITION. The fourteen operations of spec/opcode_table.json (00_scope.md section 5.4), one constructor per row. -/

namespace Sys2Proof

/-- One operation of the block. The seven `offer` cases carry the offered byte; the other operands of a rule (`cursor`,
`expectedLength`, the buffer) are state and are read by its meaning. -/
inductive Instr where
  /-- `OFFER.SYNC1` (R110). -/
  | offerSync1 (b : Byte)
  /-- `OFFER.SYNC2` (R111). -/
  | offerSync2 (b : Byte)
  /-- `OFFER.LENH` (R120). -/
  | offerLenh (b : Byte)
  /-- `OFFER.LENL` (R121). -/
  | offerLenl (b : Byte)
  /-- `OFFER.OVER` (R122). -/
  | offerOver (b : Byte)
  /-- `OFFER.LAST` (R123). -/
  | offerLast (b : Byte)
  /-- `OFFER.BODY` (R124). -/
  | offerBody (b : Byte)
  /-- `MEASURE` (R140), internal. -/
  | measure
  /-- `CHKSUM` (R141), internal. -/
  | chksum
  /-- `BE16` (R150), internal; operand: a buffer index, 0 to 30. -/
  | be16 (i : Nat)
  /-- `CLASSIFY` (R151), internal. -/
  | classify
  /-- `EXTRACT.PM` (R152), internal. -/
  | extractPm
  /-- `EXTRACT.BINS` (R153), internal. -/
  | extractBins
  /-- `RESET` (R183), control. -/
  | reset
  deriving DecidableEq, Repr

/-- The row's name in spec/opcode_table.json. -/
def Instr.mnemonic : Instr → String
  | .offerSync1 _ => "OFFER.SYNC1"
  | .offerSync2 _ => "OFFER.SYNC2"
  | .offerLenh _ => "OFFER.LENH"
  | .offerLenl _ => "OFFER.LENL"
  | .offerOver _ => "OFFER.OVER"
  | .offerLast _ => "OFFER.LAST"
  | .offerBody _ => "OFFER.BODY"
  | .measure => "MEASURE"
  | .chksum => "CHKSUM"
  | .be16 _ => "BE16"
  | .classify => "CLASSIFY"
  | .extractPm => "EXTRACT.PM"
  | .extractBins => "EXTRACT.BINS"
  | .reset => "RESET"

/-- The rows of format `internal` (R91): selected by no input pattern, invoked by another row. -/
def Instr.isInternal : Instr → Bool
  | .measure | .chksum | .be16 _ | .classify | .extractPm | .extractBins => true
  | .offerSync1 _ | .offerSync2 _ | .offerLenh _ | .offerLenl _ | .offerOver _ | .offerLast _ | .offerBody _ | .reset => false

end Sys2Proof
end

