-- ==== Sys2Proof/Machine/Dispatch.lean ====
section
/-! DEFINITION. `exec`: one arm per operation, each one call of its meaning. -/

namespace Sys2Proof.Machine

def exec (i : Instr) (s : State) : Host.Outcome State Fault Refusal :=
  match i with
  -- 40_sync.md
  | .offerSync1 b => Sys2Proof.Machine.execOfferSync1 b s
  | .offerSync2 b => Sys2Proof.Machine.execOfferSync2 b s
  -- 41_length_buffer.md
  | .offerLenh b => Sys2Proof.Machine.execOfferLenh b s
  | .offerLenl b => Sys2Proof.Machine.execOfferLenl b s
  | .offerOver b => Sys2Proof.Machine.execOfferOver b s
  | .offerLast b => Sys2Proof.Machine.execOfferLast b s
  | .offerBody b => Sys2Proof.Machine.execOfferBody b s
  -- 42_checksum.md
  | .measure => Sys2Proof.Machine.execMeasure s
  | .chksum => Sys2Proof.Machine.execChksum s
  -- 43_extract.md
  | .be16 k => Sys2Proof.Machine.execBe16 k s
  | .classify => Sys2Proof.Machine.execClassify s
  | .extractPm => Sys2Proof.Machine.execExtractPm s
  | .extractBins => Sys2Proof.Machine.execExtractBins s
  -- 60_exceptions.md
  | .reset => Sys2Proof.Machine.execReset s

end Sys2Proof.Machine
end

