-- ==== Sys2Proof/WellFormed.lean ====
section
/-! DEFINITION. When an operation is well formed. Every byte is legal in every case of `offer` (30_encoding.md R80), so the
one check is on the operand of BE16: an index from which two adjacent slots can be read (43_extract.md R150, 20_memory.md R54). -/

namespace Sys2Proof

/-- R80: an `offer` takes any byte. R150: BE16 takes `0 <= i <= 30`. -/
def Instr.wellFormed : Instr → Bool
  | .offerSync1 _ => true
  | .offerSync2 _ => true
  | .offerLenh _ => true
  | .offerLenl _ => true
  | .offerOver _ => true
  | .offerLast _ => true
  | .offerBody _ => true
  | .measure => true
  | .chksum => true
  | .be16 i => decide (i + 1 < Config.capacity)
  | .classify => true
  | .extractPm => true
  | .extractBins => true
  | .reset => true

end Sys2Proof
end

