-- ==== Sys2Proof/Decode.lean ====
section
/-! DEFINITION. Which operation a step runs (30_encoding.md section 5). The block fetches no instruction: what plays the
part of the instruction word is the state `cursor[4:0]` with `expectedLength`, and the sample on the input ports
(INDEX.md; R80, R90, R91; the ports R34). The decoder is total on it and rejects by name. The encoder follows it. -/

namespace Sys2Proof

/-- What the decoder reads at a step: the input ports (R34) and the two state registers of the dispatch (R90). -/
structure DispatchWord where
  rst            : Bool
  inValid        : Bool
  inByte         : Byte
  cursor         : Cursor
  expectedLength : TotalLength
  deriving DecidableEq, Repr

/-- Why the decoder gives no operation. -/
inductive Reject where
  /-- Neither `rst` nor `in_valid` is asserted: no operation happens at this step (R34). -/
  | noOperation
  /-- A table word with a bit set above its own width (`decodeTableWord` only). -/
  | bitsOutsideTheWord
  deriving DecidableEq, Repr

/-- The case of `offer` selected by the state, in the order of R90: the first line whose condition holds. The comparisons
are on unbounded naturals (R126, D10). -/
def decodeOffer (c : Cursor) (e : TotalLength) (b : Byte) : Instr :=
  if c.toNat = 0 then .offerSync1 b
  else if c.toNat = 1 then .offerSync2 b
  else if c.toNat = 2 then .offerLenh b
  else if c.toNat = 3 then .offerLenl b
  else if c.toNat + 1 > e.toNat then .offerOver b
  else if c.toNat + 1 = e.toNat then .offerLast b
  else .offerBody b

/-- The decoder: `rst` overrides `in_valid` (R34, R183); otherwise an `offer`, if one happens. -/
def decode (d : DispatchWord) : Except Reject Instr :=
  if d.rst then .ok .reset
  else if d.inValid then .ok (decodeOffer d.cursor d.expectedLength d.inByte)
  else .error .noOperation

/-! ### The opcode table's own rendering of the dispatch (R91) -/

/-- A row of format `offer`: it matches when `(cursor & mask) == pattern`, and `cond` compares `cursor` with `expectedLength`. -/
structure OfferRow where
  mnemonic : String
  pattern  : Cursor
  mask     : Cursor
  cond     : Nat → Nat → Bool
  instr    : Byte → Instr

/-- The seven `offer` rows of spec/opcode_table.json, in the table's priority order (R91). -/
def offerRows : List OfferRow :=
  [ ⟨"OFFER.SYNC1", 0x00, 0x1F, fun _ _ => true, .offerSync1⟩,
    ⟨"OFFER.SYNC2", 0x01, 0x1F, fun _ _ => true, .offerSync2⟩,
    ⟨"OFFER.LENH", 0x02, 0x1F, fun _ _ => true, .offerLenh⟩,
    ⟨"OFFER.LENL", 0x03, 0x1F, fun _ _ => true, .offerLenl⟩,
    ⟨"OFFER.OVER", 0x00, 0x00, fun c e => decide (4 ≤ c ∧ c + 1 > e), .offerOver⟩,
    ⟨"OFFER.LAST", 0x00, 0x00, fun c e => decide (4 ≤ c ∧ c + 1 = e), .offerLast⟩,
    ⟨"OFFER.BODY", 0x00, 0x00, fun c e => decide (4 ≤ c ∧ c + 1 < e), .offerBody⟩ ]

/-- A row is selected when its pattern matches the dispatch word and its condition holds (R91). -/
def OfferRow.selects (r : OfferRow) (c : Cursor) (e : TotalLength) : Bool :=
  (c &&& r.mask) == r.pattern && r.cond c.toNat e.toNat

/-- The first row that is selected wins (R91). -/
def decodeByTable (c : Cursor) (e : TotalLength) (b : Byte) : Option Instr :=
  (offerRows.find? fun r => r.selects c e).map fun r => r.instr b

/-! ### One 32-bit word for the whole of a dispatch

The table numbers `cursor[4:0]` as bits 4 to 0 (R91). The model gives the rest of what the decoder reads the bits above:
`in_byte` 12 to 5, `expectedLength` 29 to 13, `rst` 30, and bit 31 set when `in_valid` is 0. DESIGN CHOICE (log 4): no rule
numbers these bits, and nothing in the machine but the host's two questions uses them. -/

/-- The fields of a dispatch from its 32-bit word. -/
def DispatchWord.unpack (w : BitVec 32) : DispatchWord where
  rst := w.getLsbD 30
  inValid := !w.getLsbD 31
  inByte := w.extractLsb' 5 8
  cursor := w.extractLsb' 0 5
  expectedLength := w.extractLsb' 13 17

/-- The 32-bit word of a dispatch. -/
def DispatchWord.pack (d : DispatchWord) : BitVec 32 :=
  d.cursor.zeroExtend 32 ||| (d.inByte.zeroExtend 32 <<< 5) ||| (d.expectedLength.zeroExtend 32 <<< 13) |||
    ((BitVec.ofBool d.rst).zeroExtend 32 <<< 30) ||| ((BitVec.ofBool !d.inValid).zeroExtend 32 <<< 31)

/-- Decodes a table word of `nbits` bits, its bits numbered from 0 as the table numbers them and the bits above it 0. -/
def decodeWord (nbits w : Nat) : Except Reject Instr :=
  if nbits ≤ 32 ∧ w < 2 ^ nbits then decode (.unpack (BitVec.ofNat 32 w)) else .error .bitsOutsideTheWord

/-- The host's question: the operation the decoder reads from a table word. -/
def decodeTableWord (nbits w : Nat) : Option Instr :=
  match decodeWord nbits w with
  | .ok i => some i
  | .error _ => none

/-! ### The encoder -/

/-- The dispatch of an `offer` of `b` in a state with this `cursor` and `expectedLength`. -/
def DispatchWord.offer (c : Cursor) (e : TotalLength) (b : Byte) : DispatchWord :=
  { rst := false, inValid := true, inByte := b, cursor := c, expectedLength := e }

/-- A dispatch that selects the operation: the row's own pattern where it has one (R91), and for the three catch-all rows the
least `cursor` and `expectedLength` that meet the row's condition. The internal rows have none: no input selects them (R91). -/
def encode : Instr → Option DispatchWord
  | .offerSync1 b => some (.offer 0 0 b)
  | .offerSync2 b => some (.offer 1 0 b)
  | .offerLenh b => some (.offer 2 0 b)
  | .offerLenl b => some (.offer 3 0 b)
  | .offerOver b => some (.offer 4 4 b)
  | .offerLast b => some (.offer 4 5 b)
  | .offerBody b => some (.offer 4 6 b)
  | .reset => some { rst := true, inValid := false, inByte := 0, cursor := 0, expectedLength := 0 }
  | .measure | .chksum | .be16 _ | .classify | .extractPm | .extractBins => none

/-- The 32-bit word of `encode`. -/
def encodeWord (i : Instr) : Option (BitVec 32) := (encode i).map DispatchWord.pack

end Sys2Proof
end

