-- ==== Sys2Proof/Machine/Fetch.lean ====
section
/-! DEFINITION. What stands for the fetch: the sample on the input ports at this step, the dispatch the decoder reads
(30_encoding.md R90, R91), and the placing of a table word so that the next step runs its operation. -/

namespace Sys2Proof.Machine

/-- A step on which nothing is driven: `rst` 0, `in_valid` 0 (10_state.md R34). -/
def PortInput.quiet : PortInput := { rst := false, inValid := false, inByte := 0 }

/-- A step on which `b` is offered. -/
def PortInput.offer (b : Byte) : PortInput := { rst := false, inValid := true, inByte := b }

/-- A step on which `rst` is asserted. -/
def PortInput.reset : PortInput := { rst := true, inValid := false, inByte := 0 }

/-- The sample on the ports at the next step; when the environment drives nothing more the ports are quiet (log 2). -/
def State.sample (s : State) : PortInput := s.input.headD .quiet

/-- What the decoder reads at the next step. -/
def State.dispatch (s : State) : DispatchWord where
  rst := s.sample.rst
  inValid := s.sample.inValid
  inByte := s.sample.inByte
  cursor := s.cursor
  expectedLength := s.expectedLength

/-- The step takes its sample; the block reads each once. -/
def State.takeInput (s : State) : State := { s with input := s.input.tail }

/-- The registers and the next port sample that make a table word's operation the next one: `cursor` is its dispatch word, the
byte and `rst` stand on the ports, and `expectedLength` is set only where the dispatch reads it (`cursor >= 4`). It stands
for what the environment and the steps before would do (log 10). -/
def State.placeWord (s : State) (nbits w : Nat) : State :=
  let d := DispatchWord.unpack (BitVec.ofNat 32 (w % 2 ^ nbits))
  { s with
    cursor := d.cursor
    expectedLength := if 4 ≤ d.cursor.toNat then d.expectedLength else s.expectedLength
    input := { rst := d.rst, inValid := d.inValid, inByte := d.inByte } :: s.input }

end Sys2Proof.Machine
end

