-- ==== Sys2Proof/Machine/Step.lean ====
section
/-! DEFINITION. One step of the block: one `offer`, one `RESET`, or nothing (00_scope.md R7, 10_state.md R34). -/

namespace Sys2Proof.Machine

/-- One step: the operation the ports and the state select runs, whole and at once (20_memory.md R56); a step with neither
`rst` nor `in_valid` changes nothing and returns nothing (R34). -/
def step (s : State) : Host.Outcome State Fault Refusal :=
  match decode s.dispatch with
  | .ok i => exec i s.takeInput
  | .error _ => .next s.takeInput

/-- The state with a table word's operation selected for the next step (`placeWord`). -/
def State.withFetchWord (s : State) (nbits w : Nat) : State := s.placeWord nbits w

end Sys2Proof.Machine
end

