-- ==== Sys2Proof/Machine/Returns.lean ====
section
/-! DEFINITION. What each operation returns: the output beside `exec` (10_state.md R24). One arm per operation, each the same
definition whose state `exec` answers. -/

namespace Sys2Proof.Machine

/-- The operation on a state: the state it leaves and what it returns. -/
def operate (i : Instr) (s : State) : Op :=
  match i with
  | .offerSync1 b => runOfferSync1 b s
  | .offerSync2 b => runOfferSync2 b s
  | .offerLenh b => runOfferLenh b s
  | .offerLenl b => runOfferLenl b s
  | .offerOver b => runOfferOver b s
  | .offerLast b => runOfferLast b s
  | .offerBody b => runOfferBody b s
  | .measure => runMeasure s
  | .chksum => runChksum s
  | .be16 k => runBe16 k s
  | .classify => runClassify s
  | .extractPm => runExtractPm s
  | .extractBins => runExtractBins s
  | .reset => runReset s

/-- What the operation returns in this state. -/
def returns (i : Instr) (s : State) : Returned := (operate i s).returned

end Sys2Proof.Machine
end

