-- ==== Sys2Proof/Machine/Ports.lean ====
section
/-! DEFINITION. What the host reads at the output ports in a step (10_state.md R34, 60_exceptions.md R184). `result` is the
output of the step itself, computed from the state before it and its port sample; no register latches it (R24). -/

namespace Sys2Proof.Machine

/-- What the next step returns: what its operation returns, and nothing where none happens (R24, R34). -/
def stepReturns (s : State) : Returned :=
  match decode s.dispatch with
  | .ok i => returns i s.takeInput
  | .error _ => .nothing

/-- `result_valid`: "equals `in_valid` of the same step (when `rst == 0`)" (R34); RESET returns no result code (R183). -/
def State.resultValid (s : State) : Bool := !s.sample.rst && s.sample.inValid

/-- `result`: the port code of this step's result; no value where it has none (R34, 93_implementation_defined.md U5, log 17). -/
def State.resultPort (s : State) : Option (BitVec 3) :=
  match stepReturns s with
  | .result r => some r.code
  | .nothing | .check _ | .word _ => none

/-- The output ports together. -/
structure Outputs where
  resultValid : Bool
  result      : Option (BitVec 3)
  variant     : BitVec 2
  fields      : DecodedFields
  deriving DecidableEq, Repr

/-- The output ports in the step from `s`: the result of this step, and the registers as the most recent completed step left
them (R34). -/
def State.outputs (s : State) : Outputs where
  resultValid := s.resultValid
  result := s.resultPort
  variant := s.sensorVariant.code
  fields := s.fields

end Sys2Proof.Machine
end

