-- ==== Sys2Proof/Machine/Stream.lean ====
section
/-! DEFINITION. Byte streams: `offer`, FEED and FRAME as operations of the model (30_encoding.md R96, R97), and the well-formed
frames of R85. The block knows nothing of them; claims are stated with them. -/

namespace Sys2Proof.Machine

/-- The state with `b` driven on the ports at the next step, before whatever the environment drives later. -/
def State.offered (s : State) (b : Byte) : State := { s with input := .offer b :: s.input }

/-- `offer(b)`: the step with `b` on the ports. -/
def offer (b : Byte) (s : State) : Host.Outcome State Fault Refusal := step (s.offered b)

/-- What `offer(b)` returns. -/
def offerReturns (b : Byte) (s : State) : Returned := stepReturns (s.offered b)

/-- `FEED b0 b1 ...` (R97): the results in order and the state after the last; nothing if some `offer` has no next state. -/
def feed : List Byte → State → Option (List Result × State)
  | [], s => some ([], s)
  | b :: bs, s =>
    match offer b s with
    | .next t =>
      match offerReturns b s with
      | .result r => (feed bs t).map fun p => (r :: p.1, p.2)
      | .nothing | .check _ | .word _ => none
    | .fault _ => none
    | .refused _ => none

/-- `W(v)` (R97): the two bytes of a 16-bit value, big-endian. -/
def wordBytes (v : Word16) : List Byte := [v.extractLsb' 8 8, v.extractLsb' 0 8]

/-- The sum of a byte list modulo 65536 (R81). -/
def byteSum (l : List Byte) : Nat := (l.map BitVec.toNat).sum % 65536

/-- `FRAME(body)` (R97), for at most 26 body bytes: marker, declared length, body, checksum. -/
def frame (body : List Byte) : List Byte :=
  let header := [Config.sync0, Config.sync1] ++ wordBytes (BitVec.ofNat 16 (body.length + Config.cksumLen))
  header ++ body ++ wordBytes (BitVec.ofNat 16 (byteSum (header ++ body)))

/-- Byte `i` of a frame. -/
def byteAt (f : List Byte) (i : Nat) : Byte := f.getD i 0

/-- A well-formed frame (R85): marker, length `T - 4` with `6 <= T <= 32`, and a checksum equal to the sum of the bytes before it. -/
structure WellFormedFrame (f : List Byte) : Prop where
  shortest : 6 ≤ f.length
  longest  : f.length ≤ Config.capacity
  marker0  : byteAt f 0 = Config.sync0
  marker1  : byteAt f 1 = Config.sync1
  declared : (be16 (byteAt f 2) (byteAt f 3)).toNat + Config.headerLen = f.length
  checksum : (be16 (byteAt f (f.length - 2)) (byteAt f (f.length - 1))).toNat = byteSum (f.take (f.length - 2))

end Sys2Proof.Machine
end

