-- ==== Sys2Proof/Safety.lean ====
section
/-! DEFINITION. What a safe state is, in the terms claims use: the invariant of 10_state.md R33 (items 1 to 4 and 6, and the
buffer's canonical form; item 5 is about the bytes offered and is stated over streams), and the frame predicates. -/

namespace Sys2Proof.Machine

/-- 10_state.md R33. Item 1, `0 <= cursor <= 31`, is the width of `cursor`. -/
structure StateInv (s : State) : Prop where
  /-- The buffer keeps its canonical form, no slot outside 0 to 31 (R21, R55). -/
  bufWf : s.buf.wf
  /-- Item 2, first half. -/
  marker0 : 1 ≤ s.cursor.toNat → s.buf.read 0 = Config.sync0
  /-- Item 2, second half. -/
  marker1 : 2 ≤ s.cursor.toNat → s.buf.read 1 = Config.sync1
  /-- Item 3. -/
  lengthRange : s.expectedLength.toNat = 0 ∨ 4 ≤ s.expectedLength.toNat ∧ s.expectedLength.toNat ≤ 65539
  /-- Item 4, the length in force is the declared one. -/
  lengthDeclared : 4 ≤ s.cursor.toNat → s.expectedLength = totalLength (declaredLength s.buf)
  /-- Item 4, the accepted range. -/
  lengthAccepted : 4 ≤ s.cursor.toNat → 4 ≤ s.expectedLength.toNat ∧ s.expectedLength.toNat ≤ 32
  /-- Item 4, the cursor is inside the frame. -/
  cursorInside : 4 ≤ s.cursor.toNat → s.cursor.toNat = 4 ∨ s.cursor.toNat + 1 ≤ s.expectedLength.toNat
  /-- Item 6. -/
  unknownFields : s.sensorVariant = .unknown → s.fields = Config.fieldReset

/-- The only change of the buffer from `s` to `t` is that slot `a` now holds `b`. -/
@[simp] abbrev StoredOnly (s t : State) (a : Nat) (b : Byte) : Prop := ∀ k, t.buf.read k = if k = a then b else s.buf.read k

/-- Every slot of the buffer reads as before. -/
@[simp] abbrev BufKept (s t : State) : Prop := ∀ k, t.buf.read k = s.buf.read k

/-- `sensorVariant` and the nine decoded fields are unchanged. -/
@[simp] abbrev OutputsKept (s t : State) : Prop := t.sensorVariant = s.sensorVariant ∧ t.fields = s.fields

/-- The six size-bin fields are unchanged. -/
@[simp] abbrev BinsKept (f g : DecodedFields) : Prop :=
  g.bin0_3 = f.bin0_3 ∧ g.bin0_5 = f.bin0_5 ∧ g.bin1_0 = f.bin1_0 ∧ g.bin2_5 = f.bin2_5 ∧ g.bin5_0 = f.bin5_0 ∧ g.bin10 = f.bin10

/-- The three primary fields are unchanged. -/
@[simp] abbrev PmKept (f g : DecodedFields) : Prop := g.pm1_0 = f.pm1_0 ∧ g.pm2_5 = f.pm2_5 ∧ g.pm10 = f.pm10

end Sys2Proof.Machine
end

