-- ==== Sys2Proof/Certificates/Slice0/Obligations.lean ====
section
/-! DEFINITION. The statements for the provers, one per obligation of OBLIGATIONS.json. A byte `b` offered in a state `s` is
`offer b s`, the step with `b` on the ports, and `offerReturns b s` its result; a byte list is `feed`. No statement assumes a value for `Config.fieldReset`. -/

open Sys2Proof Sys2Proof.Machine

/-! ### Reset and the ports -/

/-- 10_state.md R32 with the spec's decision D9, and the model's own `input` (log 2) empty. -/
def Obligations.ResetStateHoldsItsValues : Prop :=
  (∀ k, State.reset.buf.read k = 0) ∧ State.reset.cursor = 0 ∧ State.reset.expectedLength = 0 ∧
  State.reset.sensorVariant = .unknown ∧ State.reset.fields = Config.fieldReset ∧
  State.reset.input = []

/-- 60_exceptions.md R183 (the spec's decisions D2, D9): RESET writes all state of the block and returns no result code. -/
def Obligations.ResetOperationConstructs : Prop :=
  ∀ s : State, ∃ t, exec .reset s = .next t ∧ (∀ k, t.buf.read k = 0) ∧ t.cursor = 0 ∧ t.expectedLength = 0 ∧
    t.sensorVariant = .unknown ∧ t.fields = Config.fieldReset ∧ returns .reset s = .nothing ∧ t.input = s.input

/-- 10_state.md R34, 60_exceptions.md R183 (the spec's decisions D1, D2): `rst` overrides `in_valid`; the step is the RESET. -/
def Obligations.RstPortOverridesOffer : Prop :=
  ∀ (s : State) (v : Bool) (b : Byte) (rest : List PortInput), s.input = ⟨true, v, b⟩ :: rest →
    step s = exec .reset { s with input := rest } ∧ step s = .next { State.reset with input := rest } ∧
    stepReturns s = .nothing

/-- 10_state.md R34 (the spec's decision D1): a step with `in_valid` 0 and `rst` 0 changes nothing and returns nothing. -/
def Obligations.QuietStepChangesNothing : Prop :=
  ∀ s : State, s.sample.rst = false → s.sample.inValid = false →
    step s = .next { s with input := s.input.tail } ∧ stepReturns s = .nothing

/-- A step runs the operation the ports and the state select, after taking the port sample, which changes nothing else, and
returns what that operation returns. -/
def Obligations.StepRunsTheDecodedOperation : Prop :=
  ∀ (s : State) (i : Instr), decode s.dispatch = .ok i →
    step s = exec i s.takeInput ∧ stepReturns s = returns i s.takeInput ∧ s.takeInput = { s with input := s.input.tail }

/-- 30_encoding.md R92, R93, 10_state.md R34 (the spec's decisions D1, D3, D4): the port codes; `result` has a value exactly when
the step returns a result (log 17). That `result_valid` is 0 at a step with `rst`, where R34 says nothing of it, is the model's
choice (log 15). -/
def Obligations.OutputPortCodes : Prop :=
  (Result.code .pending = 0 ∧ Result.code .success = 1 ∧ Result.code .frameTooLarge = 2 ∧
    Result.code .checksumFailed = 3 ∧ Result.code .invalidFrameLength = 4) ∧
  (Variant.code .unknown = 0 ∧ Variant.code .variantA = 1 ∧ Variant.code .variantB = 2) ∧
  (∀ s : State, s.outputs.variant = s.sensorVariant.code ∧ s.outputs.fields = s.fields ∧
    s.outputs.resultValid = (!s.sample.rst && s.sample.inValid) ∧
    (∀ r, stepReturns s = .result r → s.outputs.result = some r.code) ∧
    ((∀ r, stepReturns s ≠ .result r) → s.outputs.result = none))

/-! ### Dispatch and encoding -/

/-- 30_encoding.md R90 (comparisons as in the spec's decision D10): each case of `offer` is selected exactly on its line. -/
def Obligations.DispatchConditions : Prop :=
  ∀ (c : Cursor) (e : TotalLength) (b : Byte),
    (decodeOffer c e b = .offerSync1 b ↔ c.toNat = 0) ∧
    (decodeOffer c e b = .offerSync2 b ↔ c.toNat = 1) ∧
    (decodeOffer c e b = .offerLenh b ↔ c.toNat = 2) ∧
    (decodeOffer c e b = .offerLenl b ↔ c.toNat = 3) ∧
    (decodeOffer c e b = .offerOver b ↔ 4 ≤ c.toNat ∧ c.toNat + 1 > e.toNat) ∧
    (decodeOffer c e b = .offerLast b ↔ 4 ≤ c.toNat ∧ c.toNat + 1 = e.toNat) ∧
    (decodeOffer c e b = .offerBody b ↔ 4 ≤ c.toNat ∧ c.toNat + 1 < e.toNat)

/-- 30_encoding.md R91 (the spec's decision D15): match, mask and cond in priority order select what R90 selects. -/
def Obligations.TableRenderingAgreesWithDispatch : Prop :=
  ∀ (c : Cursor) (e : TotalLength) (b : Byte), decodeByTable c e b = some (decodeOffer c e b)

/-- Every operation an input selects is decoded from its encoding, at every byte, and from the encoding's 32-bit word, which
loses no bit; the internal operations, and only they, have no encoding. The word's bits above 4 are the model's (log 4). -/
def Obligations.DecodeOfEncodeIsTheOperation : Prop :=
  (∀ i : Instr, i.wellFormed = true → i.isInternal = false →
    ∃ d w, encode i = some d ∧ decode d = .ok i ∧ encodeWord i = some w ∧ decodeTableWord 32 w.toNat = some i) ∧
  (∀ i : Instr, encode i = none ↔ i.isInternal = true) ∧
  (∀ d : DispatchWord, DispatchWord.unpack d.pack = d) ∧
  (∀ w : BitVec 32, (DispatchWord.unpack w).pack = w)

/-- The table words of spec/opcode_table.json that fix the dispatch bits, and the three catch-all rows and RESET on words that
meet their conditions, decode to their rows. Bits above 4 are the model's (log 4). -/
def Obligations.TableWordsDecode : Prop :=
  decodeTableWord 8 0x00 = some (.offerSync1 0) ∧ decodeTableWord 8 0x01 = some (.offerSync2 0) ∧
  decodeTableWord 8 0x02 = some (.offerLenh 0) ∧ decodeTableWord 8 0x03 = some (.offerLenl 0) ∧
  decodeTableWord 32 0x00008004 = some (.offerOver 0) ∧ decodeTableWord 32 0x0000A004 = some (.offerLast 0) ∧
  decodeTableWord 32 0x00040004 = some (.offerBody 0) ∧ decodeTableWord 32 0x40000000 = some .reset

/-- A table word placed where the next step takes its operation is run by exactly that step, and placing it changes no
buffer slot, variant or field. -/
def Obligations.PlacedWordRunsNext : Prop :=
  ∀ (s : State) (nbits w : Nat) (i : Instr), decodeTableWord nbits w = some i →
    step (s.withFetchWord nbits w) = exec i (s.withFetchWord nbits w).takeInput ∧
    (s.withFetchWord nbits w).takeInput.input = s.input ∧
    BufKept s (s.withFetchWord nbits w) ∧ OutputsKept s (s.withFetchWord nbits w)

/-! ### The seven cases of `offer`: result, completion and frame -/

/-- 40_sync.md R110. -/
def Obligations.OfferSync1Effect : Prop :=
  (∀ c e b, decodeOffer c e b = .offerSync1 b ↔ c.toNat = 0) ∧
  ∀ (b : Byte) (s : State), ∃ t, exec (.offerSync1 b) s = .next t ∧ StoredOnly s t 0 b ∧
    (b = 0x42 → t.cursor = 1) ∧ (b ≠ 0x42 → t.cursor = 0) ∧ returns (.offerSync1 b) s = .result .pending ∧
    t.expectedLength = s.expectedLength ∧ OutputsKept s t ∧ t.input = s.input

/-- 40_sync.md R111; the store on a mismatch is the spec's decision D8 (log 12). -/
def Obligations.OfferSync2Effect : Prop :=
  (∀ c e b, decodeOffer c e b = .offerSync2 b ↔ c.toNat = 1) ∧
  ∀ (b : Byte) (s : State), ∃ t, exec (.offerSync2 b) s = .next t ∧ StoredOnly s t 1 b ∧
    (b = 0x4D → t.cursor = 2) ∧ (b ≠ 0x4D → t.cursor = 0) ∧ returns (.offerSync2 b) s = .result .pending ∧
    t.expectedLength = s.expectedLength ∧ OutputsKept s t ∧ t.input = s.input

/-- 41_length_buffer.md R120. -/
def Obligations.OfferLenhEffect : Prop :=
  (∀ c e b, decodeOffer c e b = .offerLenh b ↔ c.toNat = 2) ∧
  ∀ (b : Byte) (s : State), ∃ t, exec (.offerLenh b) s = .next t ∧ StoredOnly s t 2 b ∧
    t.cursor = 3 ∧ returns (.offerLenh b) s = .result .pending ∧
    t.expectedLength = s.expectedLength ∧ OutputsKept s t ∧ t.input = s.input

/-- 41_length_buffer.md R121; the exact addition and the unconditional write are the spec's decisions D6, D7 (logs 11, 13). -/
def Obligations.OfferLenlEffect : Prop :=
  (∀ c e b, decodeOffer c e b = .offerLenl b ↔ c.toNat = 3) ∧
  ∀ (b : Byte) (s : State), ∃ t, exec (.offerLenl b) s = .next t ∧ StoredOnly s t 3 b ∧
    t.expectedLength.toNat = 256 * (s.buf.read 2).toNat + b.toNat + 4 ∧
    (256 * (s.buf.read 2).toNat + b.toNat + 4 > 32 → t.cursor = 0 ∧ returns (.offerLenl b) s = .result .frameTooLarge) ∧
    (256 * (s.buf.read 2).toNat + b.toNat + 4 ≤ 32 → t.cursor = 4 ∧ returns (.offerLenl b) s = .result .pending) ∧
    OutputsKept s t ∧ t.input = s.input

/-- 41_length_buffer.md R122; the store is the spec's decision D8 (log 12). -/
def Obligations.OfferOverEffect : Prop :=
  (∀ c e b, decodeOffer c e b = .offerOver b ↔ 4 ≤ c.toNat ∧ c.toNat + 1 > e.toNat) ∧
  ∀ (b : Byte) (s : State), ∃ t, exec (.offerOver b) s = .next t ∧ StoredOnly s t s.cursor.toNat b ∧
    t.cursor = 0 ∧ returns (.offerOver b) s = .result .invalidFrameLength ∧
    t.expectedLength = s.expectedLength ∧ OutputsKept s t ∧ t.input = s.input

/-- 41_length_buffer.md R123: the store, then `cursor` 0, then the measurement, whose result it returns. It completes wherever
the measurement's reads lie in the buffer, so wherever it is selected; elsewhere see `IndexOutsideBufferIsRefused`. Total lengths
2 to 4, at which no dispatch selects it, are the model's choice (log 7). -/
def Obligations.OfferLastEffect : Prop :=
  (∀ c e b, decodeOffer c e b = .offerLast b ↔ 4 ≤ c.toNat ∧ c.toNat + 1 = e.toNat) ∧
  ∀ (b : Byte) (s : State), 2 ≤ s.expectedLength.toNat → s.expectedLength.toNat ≤ 32 →
    ∃ t, exec (.offerLast b) s = .next t ∧
      exec .measure { s with buf := s.buf.write s.cursor.toNat b, cursor := 0 } = .next t ∧
      returns (.offerLast b) s = returns .measure { s with buf := s.buf.write s.cursor.toNat b, cursor := 0 } ∧
      StoredOnly s t s.cursor.toNat b ∧ t.cursor = 0 ∧
      (returns (.offerLast b) s = .result .success ∨ returns (.offerLast b) s = .result .checksumFailed ∧ OutputsKept s t) ∧
      t.expectedLength = s.expectedLength ∧ t.input = s.input

/-- 41_length_buffer.md R124: it completes in every state that selects it within the invariant, `expectedLength <= 32`;
elsewhere see `UnreachableBodyIsRefused`. -/
def Obligations.OfferBodyEffect : Prop :=
  (∀ c e b, decodeOffer c e b = .offerBody b ↔ 4 ≤ c.toNat ∧ c.toNat + 1 < e.toNat) ∧
  ∀ (b : Byte) (s : State), s.expectedLength.toNat ≤ 32 → s.cursor.toNat < 31 →
    ∃ t, exec (.offerBody b) s = .next t ∧ StoredOnly s t s.cursor.toNat b ∧
      t.cursor.toNat = s.cursor.toNat + 1 ∧ returns (.offerBody b) s = .result .pending ∧
      t.expectedLength = s.expectedLength ∧ OutputsKept s t ∧ t.input = s.input

/-! ### The measurement and its parts -/

/-- 42_checksum.md R140: MEASURE is selected by no input, OFFER.LAST invokes it after its store and the cursor's reset; it is
CHKSUM, and when that passes CLASSIFY, EXTRACT.PM and, for VariantB, EXTRACT.BINS. Outside R140's precondition it is the model's
choice: total lengths 2 to 4 (log 7), and `cursor` kept on a mismatch where it is not 0 (log 19). -/
def Obligations.MeasureRunsItsParts : Prop :=
  (∀ d, decode d ≠ .ok .measure) ∧
  (∀ (b : Byte) (s : State), ∃ u, u = { s with buf := s.buf.write s.cursor.toNat b, cursor := 0 } ∧
    exec (.offerLast b) s = exec .measure u ∧ returns (.offerLast b) s = returns .measure u) ∧
  ∀ s : State,
    (returns .chksum s = .check false → exec .measure s = .next s ∧ returns .measure s = .result .checksumFailed) ∧
    (returns .chksum s = .check true → returns .measure s = .result .success ∧
      ∃ c p, exec .classify s = .next c ∧ exec .extractPm c = .next p ∧
        (p.sensorVariant = .variantB → ∃ q, exec .extractBins p = .next q ∧ exec .measure s = .next q) ∧
        (p.sensorVariant ≠ .variantB → exec .measure s = .next p))

/-- 42_checksum.md R140, 43_extract.md R151 to R153: the whole effect of MEASURE. Total lengths 2 to 4, below R140's
precondition, are the model's choice (log 7), and so is `cursor` kept on a mismatch where it is not 0 (log 19, R140's `return`). -/
def Obligations.MeasureEffect : Prop :=
  ∀ s : State, 2 ≤ s.expectedLength.toNat → s.expectedLength.toNat ≤ 32 →
    ∃ t, exec .measure s = .next t ∧
      BufKept s t ∧ t.cursor = s.cursor ∧ t.expectedLength = s.expectedLength ∧ t.input = s.input ∧
      (((List.range (s.expectedLength.toNat - 2)).map fun i => (s.buf.read i).toNat).sum % 65536 ≠
          256 * (s.buf.read (s.expectedLength.toNat - 2)).toNat + (s.buf.read (s.expectedLength.toNat - 1)).toNat →
        returns .measure s = .result .checksumFailed ∧ OutputsKept s t) ∧
      (((List.range (s.expectedLength.toNat - 2)).map fun i => (s.buf.read i).toNat).sum % 65536 =
          256 * (s.buf.read (s.expectedLength.toNat - 2)).toNat + (s.buf.read (s.expectedLength.toNat - 1)).toNat →
        returns .measure s = .result .success ∧
        t.fields.pm1_0 = s.buf.readBe16 4 ∧ t.fields.pm2_5 = s.buf.readBe16 6 ∧ t.fields.pm10 = s.buf.readBe16 8 ∧
        (s.expectedLength.toNat ≠ 32 → t.sensorVariant = .variantA ∧ BinsKept s.fields t.fields) ∧
        (s.expectedLength.toNat = 32 → t.sensorVariant = .variantB ∧
          t.fields.bin0_3 = s.buf.readBe16 16 ∧ t.fields.bin0_5 = s.buf.readBe16 18 ∧
          t.fields.bin1_0 = s.buf.readBe16 20 ∧ t.fields.bin2_5 = s.buf.readBe16 22 ∧
          t.fields.bin5_0 = s.buf.readBe16 24 ∧ t.fields.bin10 = s.buf.readBe16 26))

/-- 42_checksum.md R141, R142: the bytes before the checksum field, summed modulo 65536, against the field; nothing
written. Total lengths 2 to 4, below R140's precondition, are the model's choice (log 7). -/
def Obligations.ChksumEffect : Prop :=
  (∀ d, decode d ≠ .ok .chksum) ∧
  ∀ s : State, 2 ≤ s.expectedLength.toNat → s.expectedLength.toNat ≤ 32 →
    exec .chksum s = .next s ∧ ∃ ok, returns .chksum s = .check ok ∧
      (ok = true ↔ ((List.range (s.expectedLength.toNat - 2)).map fun i => (s.buf.read i).toNat).sum % 65536 =
        256 * (s.buf.read (s.expectedLength.toNat - 2)).toNat + (s.buf.read (s.expectedLength.toNat - 1)).toNat)

/-- 43_extract.md R150, 20_memory.md R52: the earlier byte is the more significant; nothing written. -/
def Obligations.Be16Effect : Prop :=
  (∀ d i, decode d ≠ .ok (.be16 i)) ∧
  ∀ (i : Nat) (s : State), i ≤ 30 → exec (.be16 i) s = .next s ∧ ∃ v : Word16, returns (.be16 i) s = .word v ∧
    v.toNat = 256 * (s.buf.read i).toNat + (s.buf.read (i + 1)).toNat

/-- 43_extract.md R151. -/
def Obligations.ClassifyEffect : Prop :=
  (∀ d, decode d ≠ .ok .classify) ∧
  ∀ s : State, ∃ t, exec .classify s = .next t ∧ returns .classify s = .nothing ∧
    (s.expectedLength.toNat = 32 → t.sensorVariant = .variantB) ∧ (s.expectedLength.toNat ≠ 32 → t.sensorVariant = .variantA) ∧
    BufKept s t ∧ t.cursor = s.cursor ∧ t.expectedLength = s.expectedLength ∧ t.fields = s.fields ∧ t.input = s.input

/-- 43_extract.md R152: offsets 4, 6, 8, the earlier byte the more significant. -/
def Obligations.ExtractPmEffect : Prop :=
  (∀ d, decode d ≠ .ok .extractPm) ∧
  ∀ s : State, ∃ t, exec .extractPm s = .next t ∧ returns .extractPm s = .nothing ∧
    t.fields.pm1_0.toNat = 256 * (s.buf.read 4).toNat + (s.buf.read 5).toNat ∧
    t.fields.pm2_5.toNat = 256 * (s.buf.read 6).toNat + (s.buf.read 7).toNat ∧
    t.fields.pm10.toNat = 256 * (s.buf.read 8).toNat + (s.buf.read 9).toNat ∧
    BinsKept s.fields t.fields ∧
    BufKept s t ∧ t.cursor = s.cursor ∧ t.expectedLength = s.expectedLength ∧ t.sensorVariant = s.sensorVariant ∧ t.input = s.input

/-- 43_extract.md R153: offsets 16 to 26, the earlier byte the more significant. -/
def Obligations.ExtractBinsEffect : Prop :=
  (∀ d, decode d ≠ .ok .extractBins) ∧
  ∀ s : State, ∃ t, exec .extractBins s = .next t ∧ returns .extractBins s = .nothing ∧
    t.fields.bin0_3.toNat = 256 * (s.buf.read 16).toNat + (s.buf.read 17).toNat ∧
    t.fields.bin0_5.toNat = 256 * (s.buf.read 18).toNat + (s.buf.read 19).toNat ∧
    t.fields.bin1_0.toNat = 256 * (s.buf.read 20).toNat + (s.buf.read 21).toNat ∧
    t.fields.bin2_5.toNat = 256 * (s.buf.read 22).toNat + (s.buf.read 23).toNat ∧
    t.fields.bin5_0.toNat = 256 * (s.buf.read 24).toNat + (s.buf.read 25).toNat ∧
    t.fields.bin10.toNat = 256 * (s.buf.read 26).toNat + (s.buf.read 27).toNat ∧
    PmKept s.fields t.fields ∧
    BufKept s t ∧ t.cursor = s.cursor ∧ t.expectedLength = s.expectedLength ∧ t.sensorVariant = s.sensorVariant ∧ t.input = s.input

/-- Where a read would leave the buffer the operation is refused by name (log 7): BE16 above 30, the measurement and its
checksum with a total length below 2 or above 32. -/
def Obligations.IndexOutsideBufferIsRefused : Prop :=
  (∀ (i : Nat) (s : State), 30 < i → exec (.be16 i) s = .refused .bufferIndexOutOfRange) ∧
  (∀ (b : Byte) (s : State), s.expectedLength.toNat < 2 ∨ 32 < s.expectedLength.toNat →
    exec .chksum s = .refused .bufferIndexOutOfRange ∧ exec .measure s = .refused .bufferIndexOutOfRange ∧
    exec (.offerLast b) s = .refused .bufferIndexOutOfRange)

/-- 30_encoding.md R86, 41_length_buffer.md R126 (the spec's decision D6, log 11): the total length is exact, without wrap. -/
def Obligations.TotalLengthIsExact : Prop :=
  ∀ m : Memory, (totalLength (declaredLength m)).toNat = 256 * (m.read 2).toNat + (m.read 3).toNat + 4

/-- 42_checksum.md R143: the sum of a frame's bytes never wraps, and lies between 0x90 and 0x1A91 for total lengths 6 to 32. -/
def Obligations.ChecksumSumIsBounded : Prop :=
  (∀ (m : Memory) (n : Nat), n ≤ 30 →
    (sumBytes m n).toNat = ((List.range n).map fun i => (m.read i).toNat).sum ∧ (sumBytes m n).toNat ≤ 7650) ∧
  (∀ (m : Memory) (T : Nat), 6 ≤ T → T ≤ 32 → m.read 0 = 0x42 → m.read 1 = 0x4D → m.read 2 = 0 → (m.read 3).toNat + 4 = T →
    0x90 ≤ (sumBytes m (T - 2)).toNat ∧ (sumBytes m (T - 2)).toNat ≤ 0x1A91)

/-! ### Whole-machine rules over every `offer` -/

/-- 20_memory.md R50 (the spec's decision D8, log 12): every `offer` stores its byte at `cursor`, and stores nothing else. -/
def Obligations.EveryOfferStoresAtTheCursor : Prop :=
  ∀ (b : Byte) (s t : State), offer b s = .next t → StoredOnly s t s.cursor.toNat b ∧ t.input = s.input

/-- 10_state.md R23, the whole table. -/
def Obligations.CursorMovesAsTheTable : Prop :=
  ∀ (b : Byte) (s t : State), offer b s = .next t →
    (s.cursor.toNat = 0 → t.cursor.toNat = if b = 0x42 then 1 else 0) ∧
    (s.cursor.toNat = 1 → t.cursor.toNat = if b = 0x4D then 2 else 0) ∧
    (s.cursor.toNat = 2 → t.cursor.toNat = 3) ∧
    (s.cursor.toNat = 3 → t.cursor.toNat = if 256 * (s.buf.read 2).toNat + b.toNat + 4 ≤ 32 then 4 else 0) ∧
    (4 ≤ s.cursor.toNat →
      t.cursor.toNat = if s.cursor.toNat + 1 < s.expectedLength.toNat then s.cursor.toNat + 1 else 0)

/-- 10_state.md R28: the fields and the variant change only in an `offer` that returns Success, which writes the three PM fields
always and the six bins exactly for total length 32. -/
def Obligations.FieldsChangeOnlyOnSuccess : Prop :=
  ∀ (b : Byte) (s t : State), offer b s = .next t →
    (offerReturns b s ≠ .result .success → OutputsKept s t) ∧
    (offerReturns b s = .result .success →
      t.fields.pm1_0 = t.buf.readBe16 4 ∧ t.fields.pm2_5 = t.buf.readBe16 6 ∧ t.fields.pm10 = t.buf.readBe16 8 ∧
      (s.expectedLength.toNat ≠ 32 → BinsKept s.fields t.fields) ∧
      (s.expectedLength.toNat = 32 →
        t.fields.bin0_3 = t.buf.readBe16 16 ∧ t.fields.bin0_5 = t.buf.readBe16 18 ∧ t.fields.bin1_0 = t.buf.readBe16 20 ∧
        t.fields.bin2_5 = t.buf.readBe16 22 ∧ t.fields.bin5_0 = t.buf.readBe16 24 ∧ t.fields.bin10 = t.buf.readBe16 26))

/-- 43_extract.md R154: a VariantA Success keeps the six bins, a VariantB Success writes all nine fields. -/
def Obligations.VariantASuccessKeepsTheBins : Prop :=
  ∀ (b : Byte) (s t : State), offer b s = .next t → offerReturns b s = .result .success →
    (t.sensorVariant = .variantA ∧ BinsKept s.fields t.fields) ∨
    (t.sensorVariant = .variantB ∧ t.fields =
      { pm1_0 := t.buf.readBe16 4, pm2_5 := t.buf.readBe16 6, pm10 := t.buf.readBe16 8,
        bin0_3 := t.buf.readBe16 16, bin0_5 := t.buf.readBe16 18, bin1_0 := t.buf.readBe16 20,
        bin2_5 := t.buf.readBe16 22, bin5_0 := t.buf.readBe16 24, bin10 := t.buf.readBe16 26 })

/-- 10_state.md R25 (the spec's decisions D6, D7, logs 11, 13): only the fourth byte of an attempt writes `expectedLength`. -/
def Obligations.ExpectedLengthWrittenOnlyByLenl : Prop :=
  ∀ (b : Byte) (s t : State), offer b s = .next t →
    (s.cursor.toNat ≠ 3 → t.expectedLength = s.expectedLength) ∧
    (s.cursor.toNat = 3 → t.expectedLength.toNat = 256 * (s.buf.read 2).toNat + b.toNat + 4)

/-- 10_state.md R26: without a RESET, once `sensorVariant` leaves Unknown it never returns to it. -/
def Obligations.VariantNeverReturnsToUnknown : Prop :=
  ∀ s t : State, step s = .next t → s.sample.rst = false → s.sensorVariant ≠ .unknown → t.sensorVariant ≠ .unknown

/-- 60_exceptions.md R170: the exact cause of each of the five results. -/
def Obligations.ResultsHaveTheirExactCauses : Prop :=
  ∀ (b : Byte) (s t : State), offer b s = .next t →
    (offerReturns b s = .result .frameTooLarge ↔ s.cursor.toNat = 3 ∧ 256 * (s.buf.read 2).toNat + b.toNat + 4 > 32) ∧
    (offerReturns b s = .result .invalidFrameLength ↔ 4 ≤ s.cursor.toNat ∧ s.cursor.toNat + 1 > s.expectedLength.toNat) ∧
    (offerReturns b s = .result .success ↔ 4 ≤ s.cursor.toNat ∧ s.cursor.toNat + 1 = s.expectedLength.toNat ∧
      ((List.range (s.expectedLength.toNat - 2)).map fun i => (t.buf.read i).toNat).sum % 65536 =
        256 * (t.buf.read (s.expectedLength.toNat - 2)).toNat + (t.buf.read (s.expectedLength.toNat - 1)).toNat) ∧
    (offerReturns b s = .result .checksumFailed ↔ 4 ≤ s.cursor.toNat ∧ s.cursor.toNat + 1 = s.expectedLength.toNat ∧
      ((List.range (s.expectedLength.toNat - 2)).map fun i => (t.buf.read i).toNat).sum % 65536 ≠
        256 * (t.buf.read (s.expectedLength.toNat - 2)).toNat + (t.buf.read (s.expectedLength.toNat - 1)).toNat) ∧
    (offerReturns b s = .result .pending ↔ s.cursor.toNat ≤ 2 ∨
      s.cursor.toNat = 3 ∧ 256 * (s.buf.read 2).toNat + b.toNat + 4 ≤ 32 ∨
      4 ≤ s.cursor.toNat ∧ s.cursor.toNat + 1 < s.expectedLength.toNat)

/-- 60_exceptions.md R179 (with the spec's decisions D6, D7, D8, logs 11 to 13): what an error result writes and leaves; the next `offer` is an
OFFER.SYNC1 (R180). -/
def Obligations.ErrorResultsOnlyResetTheCursor : Prop :=
  ∀ (b : Byte) (s t : State) (r : Result), offer b s = .next t → offerReturns b s = .result r → r.isError = true →
    t.cursor = 0 ∧ OutputsKept s t ∧ StoredOnly s t s.cursor.toNat b ∧
    (r ≠ .frameTooLarge → t.expectedLength = s.expectedLength) ∧
    (r = .frameTooLarge → t.expectedLength.toNat = 256 * (s.buf.read 2).toNat + b.toNat + 4 ∧
      33 ≤ t.expectedLength.toNat ∧ t.expectedLength.toNat ≤ 65539) ∧
    (∀ b', decodeOffer t.cursor t.expectedLength b' = .offerSync1 b')

/-- 60_exceptions.md R180: after any error result a fresh well-formed frame offered at once succeeds, without a reset. -/
def Obligations.FrameAfterAnErrorSucceeds : Prop :=
  ∀ (b : Byte) (s t : State) (r : Result) (f : List Byte), offer b s = .next t → offerReturns b s = .result r → r.isError = true →
    WellFormedFrame f → ∃ u, feed f t = some (List.replicate (f.length - 1) .pending ++ [.success], u) ∧ u.cursor = 0

/-- 60_exceptions.md R173: within the invariant, InvalidFrameLength is returned exactly on the fifth byte of an attempt whose
declared length is 0. -/
def Obligations.InvalidFrameLengthOnlyAfterLengthZero : Prop :=
  ∀ (b : Byte) (s t : State), StateInv s → offer b s = .next t →
    (offerReturns b s = .result .invalidFrameLength ↔ s.cursor.toNat = 4 ∧ s.buf.read 2 = 0 ∧ s.buf.read 3 = 0)

/-- 10_state.md R24, R34 (ports: the spec's decision D1): the result is an output of its own step. `result_valid` is `in_valid`
without `rst`, `result` carries a code then, and it depends on the buffer, `cursor`, `expectedLength` and the port sample alone: no
earlier result, no variant and no field takes part. That `result` has no value while `result_valid` is 0 is the model's choice
(log 17; 93_implementation_defined.md U5 allows any value there), and so is that a step with `rst` has `result_valid` 0 (log 15). -/
def Obligations.ResultIsAnOutputOfItsOwnStep : Prop :=
  (∀ s t : State, step s = .next t →
    (s.outputs.resultValid = true ↔ s.sample.rst = false ∧ s.sample.inValid = true) ∧
    (s.outputs.resultValid = true ↔ ∃ r : Result, s.outputs.result = some r.code)) ∧
  (∀ s s' : State, s.buf = s'.buf → s.cursor = s'.cursor → s.expectedLength = s'.expectedLength → s.sample = s'.sample →
    s.outputs.resultValid = s'.outputs.resultValid ∧ s.outputs.result = s'.outputs.result)

/-! ### The invariant, totality and refusal -/

/-- The invariant of 10_state.md R33 holds after reset. -/
def Obligations.ResetMeetsTheInvariant : Prop := StateInv State.reset

/-- 10_state.md R33: every step of every state that meets the invariant keeps it. -/
def Obligations.EveryStepKeepsTheInvariant : Prop := ∀ s t : State, StateInv s → step s = .next t → StateInv t

/-- 00_scope.md R7, R9: in a state that meets the invariant every step completes, and an `offer` of any byte returns one result. -/
def Obligations.EveryStepCompletesWithinTheInvariant : Prop :=
  ∀ s : State, StateInv s → (∃ t, step s = .next t) ∧ ∀ b : Byte, ∃ t r, offer b s = .next t ∧ offerReturns b s = .result r

/-- 93_implementation_defined.md U1 (log 6): a step is refused exactly when it is an `offer` in a state with `cursor >= 4` and
`expectedLength > 32`; nothing is stored and `cursor` does not wrap. -/
def Obligations.UnreachableBodyIsRefused : Prop :=
  ∀ (s : State) (r : Refusal), step s = .refused r ↔
    r = .outsideReachableStates ∧ s.sample.rst = false ∧ s.sample.inValid = true ∧
    4 ≤ s.cursor.toNat ∧ 32 < s.expectedLength.toNat

/-! ### Streams -/

/-- FEED (30_encoding.md R97) is the machine run over the bytes on its ports. -/
def Obligations.FeedIsTheMachinesRun : Prop :=
  ∀ (bs : List Byte) (s t : State) (rs : List Result), feed bs s = some (rs, t) →
    Host.Core.run Sys2Proof.core bs.length { s with input := bs.map PortInput.offer ++ s.input } = .next t ∧
    rs.length = bs.length ∧ t.input = s.input

/-- FRAME (30_encoding.md R97) builds a well-formed frame (R85) of total length `n + 6`. -/
def Obligations.FrameOfABodyIsWellFormed : Prop :=
  ∀ body : List Byte, body.length ≤ 26 → WellFormedFrame (frame body) ∧ (frame body).length = body.length + 6 ∧
    ∀ i, i < body.length → byteAt (frame body) (4 + i) = byteAt body i

/-- 30_encoding.md R85, 95_test_vectors.md S1, 43_extract.md R155: offered from idle, whatever else the state holds, a
well-formed frame returns Pending on every byte but the last and Success on it; the fields are read from the frame's bytes, and
beyond the end of a short frame from the bytes left in the buffer (no minimum length is checked: the spec's decision D12,
log 22). -/
def Obligations.WellFormedFrameIsDecoded : Prop :=
  ∀ (f : List Byte) (s : State), WellFormedFrame f → s.cursor = 0 →
    ∃ t, feed f s = some (List.replicate (f.length - 1) .pending ++ [.success], t) ∧
      t.cursor = 0 ∧ t.expectedLength.toNat = f.length ∧
      (∀ k, t.buf.read k = if k < f.length then byteAt f k else s.buf.read k) ∧
      t.fields.pm1_0 = be16 (byteAt f 4) (byteAt f 5) ∧
      t.fields.pm2_5 = t.buf.readBe16 6 ∧ t.fields.pm10 = t.buf.readBe16 8 ∧
      (f.length ≠ 32 → t.sensorVariant = .variantA ∧ BinsKept s.fields t.fields) ∧
      (f.length = 32 → t.sensorVariant = .variantB ∧
        t.fields.bin0_3 = be16 (byteAt f 16) (byteAt f 17) ∧ t.fields.bin0_5 = be16 (byteAt f 18) (byteAt f 19) ∧
        t.fields.bin1_0 = be16 (byteAt f 20) (byteAt f 21) ∧ t.fields.bin2_5 = be16 (byteAt f 22) (byteAt f 23) ∧
        t.fields.bin5_0 = be16 (byteAt f 24) (byteAt f 25) ∧ t.fields.bin10 = be16 (byteAt f 26) (byteAt f 27))

/-- 42_checksum.md R144: changing one byte of a well-formed frame after its header makes the last `offer` return
ChecksumFailed, and no output changes. -/
def Obligations.OneCorruptedByteIsDetected : Prop :=
  ∀ (f : List Byte) (s : State) (i : Nat) (v : Byte), WellFormedFrame f → s.cursor = 0 →
    4 ≤ i → i < f.length → v ≠ byteAt f i →
    ∃ t, feed (f.set i v) s = some (List.replicate (f.length - 1) .pending ++ [.checksumFailed], t) ∧
      t.cursor = 0 ∧ OutputsKept s t

/-- 10_state.md R31: from idle the results depend on the bytes alone, not on the buffer, the length, the variant or the fields. -/
def Obligations.ResultsDependOnTheBytesAlone : Prop :=
  ∀ (bs : List Byte) (s s' : State), s.cursor = 0 → s'.cursor = 0 →
    ∃ rs t t', feed bs s = some (rs, t) ∧ feed bs s' = some (rs, t') ∧ t.cursor = t'.cursor

/-- 30_encoding.md R95: an attempt in progress is over within 31 further `offer`s, and from idle the block is idle again within 32. -/
def Obligations.EveryAttemptEnds : Prop :=
  ∀ (s : State) (bs : List Byte), StateInv s → bs.length = (if s.cursor = 0 then 32 else 31) →
    ∃ k rs t, 1 ≤ k ∧ k ≤ bs.length ∧ feed (bs.take k) s = some (rs, t) ∧ t.cursor = 0

/-- 41_length_buffer.md R125: an attempt with an accepted total length `T` ends at its `T`-th byte, for `T = 4` at its fifth,
and not before; it consumes exactly the declared bytes. -/
def Obligations.AttemptConsumesItsDeclaredLength : Prop :=
  ∀ (f : List Byte) (s : State) (T : Nat), s.cursor = 0 → byteAt f 0 = 0x42 → byteAt f 1 = 0x4D →
    (be16 (byteAt f 2) (byteAt f 3)).toNat + 4 = T → T ≤ 32 → f.length = (if T = 4 then 5 else T) →
    (∀ k, k < f.length → ∃ t, feed (f.take k) s = some (List.replicate k .pending, t) ∧ t.cursor.toNat = k) ∧
    (∃ rs t, feed f s = some (rs, t) ∧ t.cursor = 0)

/-- 10_state.md R33 item 5: the slots below `cursor` hold, in order, the `cursor` most recently offered bytes. -/
def Obligations.SlotsBelowTheCursorAreTheLastOffers : Prop :=
  ∀ (bs : List Byte) (s t : State) (rs : List Result), s.cursor = 0 → feed bs s = some (rs, t) →
    t.cursor.toNat ≤ bs.length ∧
    ∀ i, i < t.cursor.toNat → t.buf.read i = byteAt bs (bs.length - t.cursor.toNat + i)

/-- 95_test_vectors.md section 4 property 10 (10_state.md R33 item 6, 43_extract.md R151): from Unknown, the variant is still
Unknown exactly when no `offer` returned Success, and then the fields are as they were. -/
def Obligations.UnknownMeansNoSuccessYet : Prop :=
  ∀ (bs : List Byte) (s t : State) (rs : List Result), s.sensorVariant = .unknown → feed bs s = some (rs, t) →
    (t.sensorVariant = .unknown ↔ Result.success ∉ rs) ∧ (t.sensorVariant = .unknown → t.fields = s.fields)

/-- 40_sync.md R113: bytes other than 0x42 offered from idle return Pending and leave the block idle, its length and outputs as they were. -/
def Obligations.NoiseWithoutTheMarkerIsIgnored : Prop :=
  ∀ (bs : List Byte) (s : State), (0x42 : Byte) ∉ bs → s.cursor = 0 →
    ∃ t, feed bs s = some (List.replicate bs.length .pending, t) ∧ t.cursor = 0 ∧
      t.expectedLength = s.expectedLength ∧ OutputsKept s t

/-- 40_sync.md R112: `cursor` becomes 2 exactly on 0x42 offered from idle followed by 0x4D; no other step leads to 1 or to 2. -/
def Obligations.SynchronizesOnTheMarkerFromIdle : Prop :=
  (∀ (s : State) (a b : Byte), s.cursor = 0 → ∃ t, feed [a, b] s = some ([.pending, .pending], t) ∧
    (t.cursor.toNat = 2 ↔ a = 0x42 ∧ b = 0x4D)) ∧
  (∀ (b : Byte) (s t : State), offer b s = .next t →
    (t.cursor.toNat = 1 → s.cursor.toNat = 0 ∧ b = 0x42) ∧ (t.cursor.toNat = 2 → s.cursor.toNat = 1 ∧ b = 0x4D))

/-- 95_test_vectors.md S5, 60_exceptions.md R171: the fourth byte of an attempt is refused exactly from declared length 29 on
(the exact addition is the spec's decision D6, log 11). -/
def Obligations.FourthByteRefusesLongFrames : Prop :=
  ∀ (s : State) (hi lo : Byte), s.cursor = 0 → ∃ r t,
    feed [0x42, 0x4D, hi, lo] s = some ([.pending, .pending, .pending, r], t) ∧ OutputsKept s t ∧
    (29 ≤ 256 * hi.toNat + lo.toNat → r = .frameTooLarge ∧ t.cursor = 0) ∧
    (256 * hi.toNat + lo.toNat < 29 → r = .pending ∧ t.cursor = 4)

/-- 41_length_buffer.md R122, 42_checksum.md R145: declared length 0 ends in InvalidFrameLength and 1 in ChecksumFailed, on the
fifth byte, whatever that byte is. -/
def Obligations.LengthsZeroAndOneNeverSucceed : Prop :=
  ∀ (s : State) (b : Byte), s.cursor = 0 →
    (∃ t, feed [0x42, 0x4D, 0, 0, b] s = some ([.pending, .pending, .pending, .pending, .invalidFrameLength], t) ∧
      t.cursor = 0 ∧ OutputsKept s t) ∧
    (∃ t, feed [0x42, 0x4D, 0, 1, b] s = some ([.pending, .pending, .pending, .pending, .checksumFailed], t) ∧
      t.cursor = 0 ∧ OutputsKept s t)

/-- 42_checksum.md R146, 43_extract.md R155: of the 6-byte attempts exactly `42 4D 00 02 00 91` succeeds, and it decodes its own
checksum and the bytes left in slots 6 to 9 (no minimum length is checked: the spec's decision D12, log 22). -/
def Obligations.ShortestFrameThatPasses : Prop :=
  ∀ (s : State) (x y : Byte), s.cursor = 0 → ∃ r t,
    feed [0x42, 0x4D, 0, 2, x, y] s = some ([.pending, .pending, .pending, .pending, .pending, r], t) ∧
    (x = 0 ∧ y = 0x91 → r = .success ∧ t.sensorVariant = .variantA ∧ t.fields.pm1_0 = 0x0091 ∧
      t.fields.pm2_5 = s.buf.readBe16 6 ∧ t.fields.pm10 = s.buf.readBe16 8 ∧ BinsKept s.fields t.fields) ∧
    (¬(x = 0 ∧ y = 0x91) → r = .checksumFailed ∧ OutputsKept s t)
end

