-- ==== Sys2Proof/Laws/Decode.lean ====
section
/-! SUPPORT. Which case of `offer` a state selects, one lemma per line of R90, and the packing of a dispatch. -/

namespace Sys2Proof

variable {c : Cursor} {e : TotalLength} (b : Byte)

theorem decodeOffer_sync1 (h : c.toNat = 0) : decodeOffer c e b = .offerSync1 b := by simp [decodeOffer, h]

theorem decodeOffer_sync2 (h : c.toNat = 1) : decodeOffer c e b = .offerSync2 b := by simp [decodeOffer, h]

theorem decodeOffer_lenh (h : c.toNat = 2) : decodeOffer c e b = .offerLenh b := by simp [decodeOffer, h]

theorem decodeOffer_lenl (h : c.toNat = 3) : decodeOffer c e b = .offerLenl b := by simp [decodeOffer, h]

theorem decodeOffer_over (h : 4 ≤ c.toNat) (h' : c.toNat + 1 > e.toNat) : decodeOffer c e b = .offerOver b := by
  rw [decodeOffer, if_neg (by omega), if_neg (by omega), if_neg (by omega), if_neg (by omega), if_pos h']

theorem decodeOffer_last (h : 4 ≤ c.toNat) (h' : c.toNat + 1 = e.toNat) : decodeOffer c e b = .offerLast b := by
  rw [decodeOffer, if_neg (by omega), if_neg (by omega), if_neg (by omega), if_neg (by omega), if_neg (by omega), if_pos h']

theorem decodeOffer_body (h : 4 ≤ c.toNat) (h' : c.toNat + 1 < e.toNat) : decodeOffer c e b = .offerBody b := by
  rw [decodeOffer, if_neg (by omega), if_neg (by omega), if_neg (by omega), if_neg (by omega), if_neg (by omega),
    if_neg (by omega)]

variable (c e) in
/-- The seven lines of R90 leave nothing over. -/
theorem cursor_cases : c.toNat = 0 ∨ c.toNat = 1 ∨ c.toNat = 2 ∨ c.toNat = 3 ∨
    (4 ≤ c.toNat ∧ c.toNat + 1 > e.toNat) ∨ (4 ≤ c.toNat ∧ c.toNat + 1 = e.toNat) ∨ (4 ≤ c.toNat ∧ c.toNat + 1 < e.toNat) := by
  omega

/-- A table word, decoded: it has no bit above its width, and its fields are the decoder's. -/
theorem decodeTableWord_eq_some {nbits w : Nat} {i : Instr} :
    decodeTableWord nbits w = some i ↔
      nbits ≤ 32 ∧ w < 2 ^ nbits ∧ decode (.unpack (BitVec.ofNat 32 w)) = .ok i := by
  unfold decodeTableWord decodeWord
  by_cases h : nbits ≤ 32 ∧ w < 2 ^ nbits
  · rw [if_pos h]
    cases hd : decode (.unpack (BitVec.ofNat 32 w)) <;> simp [h.1, h.2]
  · rw [if_neg h]
    simpa [← and_assoc] using fun h1 h2 => absurd ⟨h1, h2⟩ h

end Sys2Proof
end

