-- ==== Sys2Proof/Laws/Memory.lean ====
section
/-! SUPPORT. The laws of the buffer: read after write, the canonical form is kept by every write, and in canonical form equal
reads make equal memories. -/

namespace Sys2Proof.Machine

theorem Memory.read_nil (a : Nat) : Memory.read [] a = 0 := rfl

theorem Memory.read_filter_ne {a k : Nat} (h : k ≠ a) (m : Memory) :
    Memory.read (m.filter fun c => c.1 ≠ a) k = m.read k := by
  induction m with
  | nil => rfl
  | cons c m ih =>
    obtain ⟨j, x⟩ := c
    by_cases hj : j = a
    · subst hj
      simpa [Memory.read, Ne.symm h] using ih
    · by_cases hk : j = k <;> simp_all [Memory.read]

theorem Memory.read_of_not_mem {m : Memory} {a : Nat} (h : ∀ c ∈ m, c.1 ≠ a) : m.read a = 0 := by
  induction m with
  | nil => rfl
  | cons c m ih =>
    obtain ⟨j, x⟩ := c
    have hj : j ≠ a := h (j, x) (by simp)
    simpa [Memory.read, hj] using ih fun c hc => h c (by simp [hc])

theorem Memory.read_insert_same (m : Memory) (a : Nat) (v : Byte) (h : ∀ c ∈ m, c.1 ≠ a) :
    (Memory.insert m a v).read a = v := by
  induction m with
  | nil => simp [Memory.insert, Memory.read]
  | cons c m ih =>
    obtain ⟨j, x⟩ := c
    have hj : j ≠ a := h (j, x) (by simp)
    by_cases hlt : a < j
    · simp [Memory.insert, Memory.read, hlt]
    · simpa [Memory.insert, Memory.read, hlt, hj] using ih fun c hc => h c (by simp [hc])

theorem Memory.read_insert_ne (m : Memory) {a k : Nat} (v : Byte) (h : k ≠ a) :
    (Memory.insert m a v).read k = m.read k := by
  induction m with
  | nil => simp [Memory.insert, Memory.read, Ne.symm h]
  | cons c m ih =>
    obtain ⟨j, x⟩ := c
    by_cases hlt : a < j
    · simp [Memory.insert, Memory.read, hlt, Ne.symm h]
    · simp only [Memory.insert, Memory.read, hlt, if_false, ih]

theorem Memory.write_zero (m : Memory) (a : Nat) : m.write a 0 = m.filter fun c => c.1 ≠ a := by
  simp [Memory.write]

theorem Memory.write_of_ne (m : Memory) (a : Nat) {v : Byte} (hv : v ≠ 0) :
    m.write a v = Memory.insert (m.filter fun c => c.1 ≠ a) a v := if_neg hv

/-- Read after write: the written slot holds the byte, every other slot is as before, in every memory. -/
theorem Memory.read_write (m : Memory) (a : Nat) (v : Byte) (k : Nat) :
    (m.write a v).read k = if k = a then v else m.read k := by
  have hne : ∀ c ∈ m.filter fun c => c.1 ≠ a, c.1 ≠ a := fun c hc => by simpa using (List.mem_filter.mp hc).2
  by_cases hk : k = a
  · subst hk
    rw [if_pos rfl]
    by_cases hv : v = 0
    · rw [hv, Memory.write_zero, Memory.read_of_not_mem hne]
    · rw [Memory.write_of_ne m k hv, Memory.read_insert_same _ k v hne]
  · rw [if_neg hk, ← Memory.read_filter_ne hk m]
    by_cases hv : v = 0
    · rw [hv, Memory.write_zero]
    · rw [Memory.write_of_ne m a hv, Memory.read_insert_ne _ v hk]

@[simp] theorem Memory.read_write_same (m : Memory) (a : Nat) (v : Byte) : (m.write a v).read a = v := by
  simp [Memory.read_write]

theorem Memory.read_write_ne (m : Memory) {a k : Nat} (v : Byte) (h : k ≠ a) : (m.write a v).read k = m.read k := by
  simp [Memory.read_write, h]

/-! ### The canonical form -/

theorem Memory.wf_nil : Memory.wf [] := by simp [Memory.wf]

theorem Memory.wf_filter {m : Memory} (h : m.wf) (p : Host.Cell → Bool) : Memory.wf (m.filter p) :=
  ⟨h.1.filter p, fun c hc => h.2 c (List.mem_filter.mp hc).1⟩

theorem Memory.mem_insert {m : Memory} {a : Nat} {v : Byte} {c : Host.Cell} (h : c ∈ Memory.insert m a v) :
    c = (a, v) ∨ c ∈ m := by
  induction m with
  | nil => simpa [Memory.insert] using h
  | cons d m ih =>
    obtain ⟨j, x⟩ := d
    by_cases hlt : a < j
    · simpa [Memory.insert, hlt] using h
    · rcases List.mem_cons.mp (by simpa [Memory.insert, hlt] using h) with h | h
      · exact .inr (by simp [h])
      · exact (ih h).imp_right fun h => by simp [h]

theorem Memory.wf_insert {m : Memory} {a : Nat} {v : Byte} (h : m.wf) (ha : a < 32) (hv : v ≠ 0)
    (hne : ∀ c ∈ m, c.1 ≠ a) : Memory.wf (Memory.insert m a v) := by
  refine ⟨?_, fun c hc => ?_⟩
  · induction m with
    | nil => simp [Memory.insert]
    | cons d m ih =>
      obtain ⟨j, x⟩ := d
      have hp := List.pairwise_cons.mp h.1
      have hj : j ≠ a := hne (j, x) (by simp)
      by_cases hlt : a < j
      · simp only [Memory.insert, hlt, if_true, List.pairwise_cons]
        refine ⟨fun c hc => ?_, hp⟩
        rcases List.mem_cons.mp hc with rfl | hc
        · exact hlt
        · exact lt_trans hlt (hp.1 c hc)
      · simp only [Memory.insert, hlt, if_false, List.pairwise_cons]
        refine ⟨fun c hc => ?_, ih ⟨hp.2, fun c hc => h.2 c (by simp [hc])⟩ fun c hc => hne c (by simp [hc])⟩
        rcases Memory.mem_insert hc with rfl | hc
        · simp only; omega
        · exact hp.1 c hc
  · rcases Memory.mem_insert hc with rfl | hc
    · exact ⟨ha, hv⟩
    · exact h.2 c hc

/-- Every write to a slot of the buffer keeps the canonical form. -/
theorem Memory.wf_write {m : Memory} (h : m.wf) {a : Nat} (ha : a < 32) (v : Byte) : (m.write a v).wf := by
  have hf := Memory.wf_filter h fun c => c.1 ≠ a
  by_cases hv : v = 0
  · rw [hv, Memory.write_zero]; exact hf
  · rw [Memory.write_of_ne m a hv]
    exact Memory.wf_insert hf ha hv fun c hc => by simpa using (List.mem_filter.mp hc).2

theorem Memory.read_of_mem {m : Memory} (h : m.wf) {c : Host.Cell} (hc : c ∈ m) : m.read c.1 = c.2 := by
  induction m with
  | nil => simp at hc
  | cons d m ih =>
    obtain ⟨j, x⟩ := d
    have hp := List.pairwise_cons.mp h.1
    rcases List.mem_cons.mp hc with rfl | hc
    · simp [Memory.read]
    · have : j ≠ c.1 := Nat.ne_of_lt (hp.1 c hc)
      simpa [Memory.read, this] using ih ⟨hp.2, fun c hc => h.2 c (by simp [hc])⟩ hc

/-- A slot that reads other than 0 is listed, in every memory. -/
theorem Memory.mem_of_read {m : Memory} {a : Nat} (h : m.read a ≠ 0) : (a, m.read a) ∈ m := by
  induction m with
  | nil => simp [Memory.read] at h
  | cons d m ih =>
    obtain ⟨j, x⟩ := d
    by_cases hj : j = a
    · simp [Memory.read, hj]
    · have h' : Memory.read m a ≠ 0 := by simpa [Memory.read, hj] using h
      simpa [Memory.read, hj] using Or.inr (ih h')

/-- In canonical form equal memories are equal data. -/
theorem Memory.ext_of_read {m n : Memory} (hm : m.wf) (hn : n.wf) (h : ∀ a, m.read a = n.read a) : m = n := by
  have key : ∀ {m n : Memory}, m.wf → n.wf → (∀ a, m.read a = n.read a) → ∀ c ∈ m, c ∈ n := by
    intro m n hm _ h c hc
    have hr := Memory.read_of_mem hm hc
    have : (c.1, n.read c.1) ∈ n := Memory.mem_of_read (by rw [← h, hr]; exact (hm.2 c hc).2)
    rwa [← h, hr] at this
  have strict : ∀ {m : Memory}, m.wf → m.Nodup := fun hm => hm.1.imp fun h e => by simp [e] at h
  exact List.Perm.eq_of_pairwise (fun a b _ _ hab hba => absurd hab (lt_asymm hba)) hm.1 hn.1
    ((List.perm_ext_iff_of_nodup (strict hm) (strict hn)).mpr fun c =>
      ⟨key hm hn h c, key hn hm (fun a => (h a).symm) c⟩)

end Sys2Proof.Machine
end

