-- ==== Sys2Proof/Laws/Operands.lean ====
section
/-! SUPPORT. What the operand forms and conditions compute, as natural numbers, and that they read only the slots they name. -/

namespace Sys2Proof.Machine

/-- R150, R52: `{hi, lo}` is `256 * hi + lo`. -/
theorem be16_toNat (hi lo : Byte) : (be16 hi lo).toNat = 256 * hi.toNat + lo.toNat := by
  have h1 := hi.isLt
  have h2 := lo.isLt
  have h : hi.toNat <<< 8 = 2 ^ 8 * hi.toNat := by rw [Nat.shiftLeft_eq, Nat.mul_comm]
  simp only [be16, BitVec.truncate_eq_setWidth, BitVec.toNat_or, BitVec.toNat_shiftLeft, BitVec.toNat_setWidth]
  rw [Nat.mod_eq_of_lt (by omega : hi.toNat < 2 ^ 16), Nat.mod_eq_of_lt (by omega : lo.toNat < 2 ^ 16), h,
    Nat.mod_eq_of_lt (by omega), ← Nat.two_pow_add_eq_or_of_lt (by omega)]

theorem Memory.readBe16_toNat (m : Memory) (i : Nat) :
    (m.readBe16 i).toNat = 256 * (m.read i).toNat + (m.read (i + 1)).toNat := be16_toNat _ _

/-- A two-byte read reads its two slots only. -/
theorem Memory.readBe16_congr {m n : Memory} {i : Nat} (h0 : m.read i = n.read i) (h1 : m.read (i + 1) = n.read (i + 1)) :
    m.readBe16 i = n.readBe16 i := by
  rw [Memory.readBe16, h0, h1, Memory.readBe16]

/-- R86, R126: the total length is exact. -/
theorem totalLength_toNat (l : Word16) : (totalLength l).toNat = l.toNat + 4 := by
  have := l.isLt
  simp only [totalLength, Config.headerLen, BitVec.truncate_eq_setWidth, BitVec.toNat_add, BitVec.toNat_setWidth,
    BitVec.toNat_ofNat]
  omega

theorem declaredLength_toNat (m : Memory) :
    (declaredLength m).toNat = 256 * (m.read 2).toNat + (m.read 3).toNat := Memory.readBe16_toNat m 2

theorem totalLength_declaredLength_toNat (m : Memory) :
    (totalLength (declaredLength m)).toNat = 256 * (m.read 2).toNat + (m.read 3).toNat + 4 := by
  rw [totalLength_toNat, declaredLength_toNat]

/-! ### The sum -/

/-- The sum of the first `n` bytes on unbounded naturals. -/
def natSum (m : Memory) (n : Nat) : Nat := ((List.range n).map fun i => (m.read i).toNat).sum

@[simp] theorem natSum_zero (m : Memory) : natSum m 0 = 0 := rfl

theorem natSum_succ (m : Memory) (n : Nat) : natSum m (n + 1) = natSum m n + (m.read n).toNat := by
  simp [natSum, List.range_succ]

theorem natSum_le (m : Memory) (n : Nat) : natSum m n ≤ 255 * n := by
  induction n with
  | zero => simp
  | succ n ih =>
    have := (m.read n).isLt
    rw [natSum_succ]; omega

/-- R142: the wrapping sum is the exact one modulo 65536. -/
theorem sumBytes_toNat (m : Memory) (n : Nat) : (sumBytes m n).toNat = natSum m n % 65536 := by
  induction n with
  | zero => rfl
  | succ n ih =>
    have := (m.read n).isLt
    have e : ((m.read n).zeroExtend 16).toNat = (m.read n).toNat := by
      rw [BitVec.toNat_setWidth]; omega
    rw [natSum_succ, sumBytes, BitVec.toNat_add, ih, e]
    omega

/-- R143: thirty bytes cannot wrap. -/
theorem sumBytes_toNat_of_le (m : Memory) {n : Nat} (h : n ≤ 30) : (sumBytes m n).toNat = natSum m n := by
  have := natSum_le m n
  rw [sumBytes_toNat]; omega

theorem natSum_congr {m n : Memory} {k : Nat} (h : ∀ i < k, m.read i = n.read i) : natSum m k = natSum n k := by
  induction k with
  | zero => rfl
  | succ k ih => rw [natSum_succ, natSum_succ, ih fun i hi => h i (by omega), h k (by omega)]

/-- CHKSUM's test, on naturals (R141). -/
theorem checksumMatches_iff (m : Memory) {T : Nat} (h : 2 ≤ T) :
    checksumMatches m T = true ↔ natSum m (T - 2) % 65536 = 256 * (m.read (T - 2)).toNat + (m.read (T - 1)).toNat := by
  rw [checksumMatches, beq_iff_eq, ← BitVec.toNat_inj, sumBytes_toNat, checksumField, Memory.readBe16_toNat,
    Config.cksumLen, show T - 2 + 1 = T - 1 by omega]

/-- CHKSUM reads only the frame's slots. -/
theorem checksumMatches_congr {m n : Memory} {T : Nat} (hT : 2 ≤ T) (h : ∀ i < T, m.read i = n.read i) :
    checksumMatches m T = checksumMatches n T := by
  have e := natSum_congr (k := T - 2) fun i hi => h i (by omega)
  rw [Bool.eq_iff_iff, checksumMatches_iff m hT, checksumMatches_iff n hT, e, h (T - 2) (by omega), h (T - 1) (by omega)]

/-! ### Conditions -/

@[simp] theorem exceedsCapacity_iff (e : TotalLength) : exceedsCapacity e = true ↔ 32 < e.toNat := by simp [exceedsCapacity]

@[simp] theorem isVariantBLength_iff (e : TotalLength) : isVariantBLength e = true ↔ e.toNat = 32 := by simp [isVariantBLength]

end Sys2Proof.Machine
end

