-- ==== Sys2Proof/Laws/State.lean ====
section
/-! SUPPORT. The fields of every named update of State, one lemma per field per update, so that no later proof unfolds a
record update. -/

namespace Sys2Proof.Machine

variable (s : State)

/-! ### storeByte -/

@[simp] theorem State.storeByte_buf (a : Nat) (b : Byte) : (s.storeByte a b).buf = s.buf.write a b := rfl
@[simp] theorem State.storeByte_cursor (a : Nat) (b : Byte) : (s.storeByte a b).cursor = s.cursor := rfl
@[simp] theorem State.storeByte_expectedLength (a : Nat) (b : Byte) : (s.storeByte a b).expectedLength = s.expectedLength := rfl
@[simp] theorem State.storeByte_sensorVariant (a : Nat) (b : Byte) : (s.storeByte a b).sensorVariant = s.sensorVariant := rfl
@[simp] theorem State.storeByte_fields (a : Nat) (b : Byte) : (s.storeByte a b).fields = s.fields := rfl
@[simp] theorem State.storeByte_input (a : Nat) (b : Byte) : (s.storeByte a b).input = s.input := rfl

/-! ### setCursor -/

@[simp] theorem State.setCursor_buf (c : Cursor) : (s.setCursor c).buf = s.buf := rfl
@[simp] theorem State.setCursor_cursor (c : Cursor) : (s.setCursor c).cursor = c := rfl
@[simp] theorem State.setCursor_expectedLength (c : Cursor) : (s.setCursor c).expectedLength = s.expectedLength := rfl
@[simp] theorem State.setCursor_sensorVariant (c : Cursor) : (s.setCursor c).sensorVariant = s.sensorVariant := rfl
@[simp] theorem State.setCursor_fields (c : Cursor) : (s.setCursor c).fields = s.fields := rfl
@[simp] theorem State.setCursor_input (c : Cursor) : (s.setCursor c).input = s.input := rfl

/-! ### setExpectedLength -/

@[simp] theorem State.setExpectedLength_buf (n : TotalLength) : (s.setExpectedLength n).buf = s.buf := rfl
@[simp] theorem State.setExpectedLength_cursor (n : TotalLength) : (s.setExpectedLength n).cursor = s.cursor := rfl
@[simp] theorem State.setExpectedLength_expectedLength (n : TotalLength) : (s.setExpectedLength n).expectedLength = n := rfl
@[simp] theorem State.setExpectedLength_sensorVariant (n : TotalLength) : (s.setExpectedLength n).sensorVariant = s.sensorVariant := rfl
@[simp] theorem State.setExpectedLength_fields (n : TotalLength) : (s.setExpectedLength n).fields = s.fields := rfl
@[simp] theorem State.setExpectedLength_input (n : TotalLength) : (s.setExpectedLength n).input = s.input := rfl

/-! ### setVariant -/

@[simp] theorem State.setVariant_buf (v : Variant) : (s.setVariant v).buf = s.buf := rfl
@[simp] theorem State.setVariant_cursor (v : Variant) : (s.setVariant v).cursor = s.cursor := rfl
@[simp] theorem State.setVariant_expectedLength (v : Variant) : (s.setVariant v).expectedLength = s.expectedLength := rfl
@[simp] theorem State.setVariant_sensorVariant (v : Variant) : (s.setVariant v).sensorVariant = v := rfl
@[simp] theorem State.setVariant_fields (v : Variant) : (s.setVariant v).fields = s.fields := rfl
@[simp] theorem State.setVariant_input (v : Variant) : (s.setVariant v).input = s.input := rfl

/-! ### setFields -/

@[simp] theorem State.setFields_buf (f : DecodedFields) : (s.setFields f).buf = s.buf := rfl
@[simp] theorem State.setFields_cursor (f : DecodedFields) : (s.setFields f).cursor = s.cursor := rfl
@[simp] theorem State.setFields_expectedLength (f : DecodedFields) : (s.setFields f).expectedLength = s.expectedLength := rfl
@[simp] theorem State.setFields_sensorVariant (f : DecodedFields) : (s.setFields f).sensorVariant = s.sensorVariant := rfl
@[simp] theorem State.setFields_fields (f : DecodedFields) : (s.setFields f).fields = f := rfl
@[simp] theorem State.setFields_input (f : DecodedFields) : (s.setFields f).input = s.input := rfl

/-! ### answer, finish, raise: the two projections of an operation that ran -/

@[simp] theorem State.answer_toStep (r : Returned) : (s.answer r).toStep = .next s := rfl
@[simp] theorem State.answer_returned (r : Returned) : (s.answer r).returned = r := rfl
@[simp] theorem State.finish_toStep (r : Result) : (s.finish r).toStep = .next s := rfl
@[simp] theorem State.finish_returned (r : Result) : (s.finish r).returned = .result r := rfl
@[simp] theorem State.raise_toStep (r : Result) : (s.raise r).toStep = .next (s.setCursor 0) := rfl
@[simp] theorem State.raise_returned (r : Result) : (s.raise r).returned = .result r := rfl
@[simp] theorem Op.error_toStep (r : Refusal) : Op.toStep (.error r) = .refused r := rfl
@[simp] theorem Op.error_returned (r : Refusal) : Op.returned (.error r) = .nothing := rfl

/-! ### takeInput -/

@[simp] theorem State.takeInput_buf : s.takeInput.buf = s.buf := rfl
@[simp] theorem State.takeInput_cursor : s.takeInput.cursor = s.cursor := rfl
@[simp] theorem State.takeInput_expectedLength : s.takeInput.expectedLength = s.expectedLength := rfl
@[simp] theorem State.takeInput_sensorVariant : s.takeInput.sensorVariant = s.sensorVariant := rfl
@[simp] theorem State.takeInput_fields : s.takeInput.fields = s.fields := rfl
@[simp] theorem State.takeInput_input : s.takeInput.input = s.input.tail := rfl

/-! ### classify -/

@[simp] theorem State.classify_buf : s.classify.buf = s.buf := rfl
@[simp] theorem State.classify_cursor : s.classify.cursor = s.cursor := rfl
@[simp] theorem State.classify_expectedLength : s.classify.expectedLength = s.expectedLength := rfl
@[simp] theorem State.classify_sensorVariant : s.classify.sensorVariant = if isVariantBLength s.expectedLength then .variantB else .variantA := rfl
@[simp] theorem State.classify_fields : s.classify.fields = s.fields := rfl
@[simp] theorem State.classify_input : s.classify.input = s.input := rfl

/-! ### resolveLength -/

@[simp] theorem State.resolveLength_buf : s.resolveLength.buf = s.buf := rfl
@[simp] theorem State.resolveLength_cursor : s.resolveLength.cursor = s.cursor := rfl
@[simp] theorem State.resolveLength_expectedLength : s.resolveLength.expectedLength = totalLength (declaredLength s.buf) := rfl
@[simp] theorem State.resolveLength_sensorVariant : s.resolveLength.sensorVariant = s.sensorVariant := rfl
@[simp] theorem State.resolveLength_fields : s.resolveLength.fields = s.fields := rfl
@[simp] theorem State.resolveLength_input : s.resolveLength.input = s.input := rfl

/-! ### extractPm -/

@[simp] theorem State.extractPm_buf : s.extractPm.buf = s.buf := rfl
@[simp] theorem State.extractPm_cursor : s.extractPm.cursor = s.cursor := rfl
@[simp] theorem State.extractPm_expectedLength : s.extractPm.expectedLength = s.expectedLength := rfl
@[simp] theorem State.extractPm_sensorVariant : s.extractPm.sensorVariant = s.sensorVariant := rfl
@[simp] theorem State.extractPm_input : s.extractPm.input = s.input := rfl

/-! ### extractBins -/

@[simp] theorem State.extractBins_buf : s.extractBins.buf = s.buf := rfl
@[simp] theorem State.extractBins_cursor : s.extractBins.cursor = s.cursor := rfl
@[simp] theorem State.extractBins_expectedLength : s.extractBins.expectedLength = s.expectedLength := rfl
@[simp] theorem State.extractBins_sensorVariant : s.extractBins.sensorVariant = s.sensorVariant := rfl
@[simp] theorem State.extractBins_input : s.extractBins.input = s.input := rfl

/-! ### construct -/

@[simp] theorem State.construct_buf : s.construct.buf = [] := rfl
@[simp] theorem State.construct_cursor : s.construct.cursor = 0 := rfl
@[simp] theorem State.construct_expectedLength : s.construct.expectedLength = 0 := rfl
@[simp] theorem State.construct_sensorVariant : s.construct.sensorVariant = .unknown := rfl
@[simp] theorem State.construct_fields : s.construct.fields = Config.fieldReset := rfl
@[simp] theorem State.construct_input : s.construct.input = s.input := rfl

@[simp] theorem State.extractPm_pm1_0 : s.extractPm.fields.pm1_0 = s.buf.readBe16 4 := rfl
@[simp] theorem State.extractPm_pm2_5 : s.extractPm.fields.pm2_5 = s.buf.readBe16 6 := rfl
@[simp] theorem State.extractPm_pm10 : s.extractPm.fields.pm10 = s.buf.readBe16 8 := rfl
@[simp] theorem State.extractPm_bin0_3 : s.extractPm.fields.bin0_3 = s.fields.bin0_3 := rfl
@[simp] theorem State.extractPm_bin0_5 : s.extractPm.fields.bin0_5 = s.fields.bin0_5 := rfl
@[simp] theorem State.extractPm_bin1_0 : s.extractPm.fields.bin1_0 = s.fields.bin1_0 := rfl
@[simp] theorem State.extractPm_bin2_5 : s.extractPm.fields.bin2_5 = s.fields.bin2_5 := rfl
@[simp] theorem State.extractPm_bin5_0 : s.extractPm.fields.bin5_0 = s.fields.bin5_0 := rfl
@[simp] theorem State.extractPm_bin10 : s.extractPm.fields.bin10 = s.fields.bin10 := rfl

@[simp] theorem State.extractBins_pm1_0 : s.extractBins.fields.pm1_0 = s.fields.pm1_0 := rfl
@[simp] theorem State.extractBins_pm2_5 : s.extractBins.fields.pm2_5 = s.fields.pm2_5 := rfl
@[simp] theorem State.extractBins_pm10 : s.extractBins.fields.pm10 = s.fields.pm10 := rfl
@[simp] theorem State.extractBins_bin0_3 : s.extractBins.fields.bin0_3 = s.buf.readBe16 16 := rfl
@[simp] theorem State.extractBins_bin0_5 : s.extractBins.fields.bin0_5 = s.buf.readBe16 18 := rfl
@[simp] theorem State.extractBins_bin1_0 : s.extractBins.fields.bin1_0 = s.buf.readBe16 20 := rfl
@[simp] theorem State.extractBins_bin2_5 : s.extractBins.fields.bin2_5 = s.buf.readBe16 22 := rfl
@[simp] theorem State.extractBins_bin5_0 : s.extractBins.fields.bin5_0 = s.buf.readBe16 24 := rfl
@[simp] theorem State.extractBins_bin10 : s.extractBins.fields.bin10 = s.buf.readBe16 26 := rfl

end Sys2Proof.Machine
end

