-- ==== Sys2Proof/Laws/Step.lean ====
section
/-! SUPPORT. Everything a step can do, said once: the inversion of `offer` (`OfferCase`), of `step`, and when they complete. -/

namespace Sys2Proof.Machine

/-! ### The measurement (42_checksum.md R140) -/

section decodeFrame
variable (s : State)

@[simp] theorem State.decodeFrame_buf : s.decodeFrame.buf = s.buf := by
  unfold State.decodeFrame; dsimp only; split <;> rfl

@[simp] theorem State.decodeFrame_cursor : s.decodeFrame.cursor = s.cursor := by
  unfold State.decodeFrame; dsimp only; split <;> rfl

@[simp] theorem State.decodeFrame_expectedLength : s.decodeFrame.expectedLength = s.expectedLength := by
  unfold State.decodeFrame; dsimp only; split <;> rfl

@[simp] theorem State.decodeFrame_input : s.decodeFrame.input = s.input := by
  unfold State.decodeFrame; dsimp only; split <;> rfl

@[simp] theorem State.decodeFrame_sensorVariant :
    s.decodeFrame.sensorVariant = if s.expectedLength.toNat = 32 then .variantB else .variantA := by
  unfold State.decodeFrame; dsimp only; split <;> simp

/-- R151 to R153: the PM fields always, the bins for VariantB, the bins as before otherwise. -/
theorem State.decodeFrame_fields_of_variantB (h : s.expectedLength.toNat = 32) :
    s.decodeFrame.fields =
      { pm1_0 := s.buf.readBe16 4, pm2_5 := s.buf.readBe16 6, pm10 := s.buf.readBe16 8,
        bin0_3 := s.buf.readBe16 16, bin0_5 := s.buf.readBe16 18, bin1_0 := s.buf.readBe16 20,
        bin2_5 := s.buf.readBe16 22, bin5_0 := s.buf.readBe16 24, bin10 := s.buf.readBe16 26 } := by
  have hv : s.classify.extractPm.sensorVariant = .variantB := by simp [h]
  unfold State.decodeFrame; dsimp only; rw [if_pos hv]; rfl

theorem State.decodeFrame_fields_of_variantA (h : s.expectedLength.toNat ≠ 32) :
    s.decodeFrame.fields =
      { s.fields with pm1_0 := s.buf.readBe16 4, pm2_5 := s.buf.readBe16 6, pm10 := s.buf.readBe16 8 } := by
  have hv : ¬ s.classify.extractPm.sensorVariant = .variantB := by simp [h]
  unfold State.decodeFrame; dsimp only; rw [if_neg hv]; rfl

theorem State.decodeFrame_pm : s.decodeFrame.fields.pm1_0 = s.buf.readBe16 4 ∧
    s.decodeFrame.fields.pm2_5 = s.buf.readBe16 6 ∧ s.decodeFrame.fields.pm10 = s.buf.readBe16 8 := by
  by_cases h : s.expectedLength.toNat = 32
  · rw [s.decodeFrame_fields_of_variantB h]; exact ⟨rfl, rfl, rfl⟩
  · rw [s.decodeFrame_fields_of_variantA h]; exact ⟨rfl, rfl, rfl⟩

end decodeFrame

theorem measureFrame_of_match {s : State} (h2 : 2 ≤ s.expectedLength.toNat) (h32 : s.expectedLength.toNat ≤ 32)
    (hm : checksumMatches s.buf s.expectedLength.toNat = true) : measureFrame s = s.decodeFrame.finish .success := by
  rw [measureFrame, if_pos ⟨h2, h32⟩, if_pos hm]

theorem measureFrame_of_mismatch {s : State} (h2 : 2 ≤ s.expectedLength.toNat) (h32 : s.expectedLength.toNat ≤ 32)
    (hm : checksumMatches s.buf s.expectedLength.toNat = false) : measureFrame s = s.finish .checksumFailed := by
  rw [measureFrame, if_pos ⟨h2, h32⟩, if_neg (by simp [hm])]

/-! ### `exec` and `returns` are the two projections of one operation -/

theorem exec_eq_operate (i : Instr) (s : State) : exec i s = (operate i s).toStep := by cases i <;> rfl

/-- An operation that runs: the state `exec` answers. -/
theorem exec_of_operate {i : Instr} {s t : State} {r : Returned} (h : operate i s = t.answer r) : exec i s = .next t := by
  rw [exec_eq_operate, h]; rfl

/-- An operation that runs: what it returns. -/
theorem returns_of_operate {i : Instr} {s t : State} {r : Returned} (h : operate i s = t.answer r) : returns i s = r := by
  rw [returns, h]; rfl

/-- An operation that has no meaning in the state. -/
theorem exec_of_error {i : Instr} {s : State} {r : Refusal} (h : operate i s = .error r) : exec i s = .refused r := by
  rw [exec_eq_operate, h]; rfl

section returns
variable (b : Byte) (s : State)

@[simp] theorem returns_offerSync1 : returns (.offerSync1 b) s = .result .pending := rfl
@[simp] theorem returns_offerSync2 : returns (.offerSync2 b) s = .result .pending := rfl
@[simp] theorem returns_offerLenh : returns (.offerLenh b) s = .result .pending := rfl
@[simp] theorem returns_offerOver : returns (.offerOver b) s = .result .invalidFrameLength := rfl
@[simp] theorem returns_classify : returns .classify s = .nothing := rfl
@[simp] theorem returns_extractPm : returns .extractPm s = .nothing := rfl
@[simp] theorem returns_extractBins : returns .extractBins s = .nothing := rfl
@[simp] theorem returns_reset : returns .reset s = .nothing := rfl

end returns

/-- What an operation returns depends on the buffer, `cursor` and `expectedLength` alone. -/
theorem returns_congr (i : Instr) {s s' : State} (hb : s.buf = s'.buf) (hc : s.cursor = s'.cursor)
    (he : s.expectedLength = s'.expectedLength) : returns i s = returns i s' := by
  have hm : ∀ {s s' : State}, s.buf = s'.buf → s.expectedLength = s'.expectedLength →
      (measureFrame s).returned = (measureFrame s').returned := by
    intro s s' hb he
    unfold measureFrame
    rw [hb, he]
    split
    · split <;> rfl
    · rfl
  cases i with
  | offerLast b => exact hm (by simp [hb, hc]) (by simp [he])
  | measure => exact hm hb he
  | offerLenl b =>
    have e : (s.storeByte 3 b).resolveLength.expectedLength = (s'.storeByte 3 b).resolveLength.expectedLength := by simp [hb]
    simp only [returns, operate, runOfferLenl]
    rw [e]
    by_cases h : exceedsCapacity (s'.storeByte 3 b).resolveLength.expectedLength = true
    · rw [if_pos h, if_pos h]; rfl
    · rw [if_neg h, if_neg h]; rfl
  | offerBody b =>
    simp only [returns, operate, runOfferBody]
    rw [hc, he]
    split <;> rfl
  | chksum =>
    simp only [returns, operate, runChksum]
    rw [hb, he]
    split <;> rfl
  | be16 b =>
    simp only [returns, operate, runBe16]
    rw [hb]
    split <;> rfl
  | _ => rfl

/-! ### One `offer` -/

/-- The case an `offer` runs, in the state itself. -/
abbrev offerOp (b : Byte) (s : State) : Op := operate (decodeOffer s.cursor s.expectedLength b) s

theorem offer_eq_offerOp (b : Byte) (s : State) : offer b s = (offerOp b s).toStep := exec_eq_operate _ s

theorem offerReturns_eq_offerOp (b : Byte) (s : State) : offerReturns b s = (offerOp b s).returned := rfl

/-- The state after the one store of an `offer` (R50). -/
abbrev State.stored (s : State) (b : Byte) : State := s.storeByte s.cursor.toNat b

/-- Everything an `offer` of `b` can do in `s`, by the line of R90 that selects the case: the next state and the result. -/
inductive OfferCase (b : Byte) (s : State) : State → Result → Prop
  | sync1 (hc : s.cursor.toNat = 0) :
      OfferCase b s ((s.stored b).setCursor (if b = 0x42 then 1 else 0)) .pending
  | sync2 (hc : s.cursor.toNat = 1) :
      OfferCase b s ((s.stored b).setCursor (if b = 0x4D then 2 else 0)) .pending
  | lenh (hc : s.cursor.toNat = 2) : OfferCase b s ((s.stored b).setCursor 3) .pending
  | lenlTooLarge (hc : s.cursor.toNat = 3) (h : 32 < 256 * (s.buf.read 2).toNat + b.toNat + 4) :
      OfferCase b s ((s.stored b).resolveLength.setCursor 0) .frameTooLarge
  | lenlFits (hc : s.cursor.toNat = 3) (h : 256 * (s.buf.read 2).toNat + b.toNat + 4 ≤ 32) :
      OfferCase b s ((s.stored b).resolveLength.setCursor 4) .pending
  | pastEnd (hc : 4 ≤ s.cursor.toNat) (h : s.cursor.toNat + 1 > s.expectedLength.toNat) :
      OfferCase b s ((s.stored b).setCursor 0) .invalidFrameLength
  | lastMatch (hc : 4 ≤ s.cursor.toNat) (h : s.cursor.toNat + 1 = s.expectedLength.toNat)
      (hm : checksumMatches (s.stored b).buf s.expectedLength.toNat = true) :
      OfferCase b s ((s.stored b).setCursor 0).decodeFrame .success
  | lastMismatch (hc : 4 ≤ s.cursor.toNat) (h : s.cursor.toNat + 1 = s.expectedLength.toNat)
      (hm : checksumMatches (s.stored b).buf s.expectedLength.toNat = false) :
      OfferCase b s ((s.stored b).setCursor 0) .checksumFailed
  | body (hc : 4 ≤ s.cursor.toNat) (h : s.cursor.toNat + 1 < s.expectedLength.toNat) (h32 : s.expectedLength.toNat ≤ 32) :
      OfferCase b s ((s.stored b).setCursor (s.cursor + 1)) .pending

/-- The length resolved by the fourth byte (R121). -/
theorem State.resolveLength_stored_toNat {s : State} (b : Byte) (hc : s.cursor.toNat = 3) :
    (s.stored b).resolveLength.expectedLength.toNat = 256 * (s.buf.read 2).toNat + b.toNat + 4 := by
  simp [totalLength_declaredLength_toNat, Memory.read_write, hc]

/-- An operation of `offer` whose state is not refused does what its case says. -/
theorem offerOp_ok (b : Byte) (s : State) (hok : 4 ≤ s.cursor.toNat → s.expectedLength.toNat ≤ 32) :
    ∃ t r, offerOp b s = t.finish r ∧ OfferCase b s t r := by
  unfold offerOp
  have hlt := s.cursor.isLt
  rcases cursor_cases s.cursor s.expectedLength with h | h | h | h | ⟨h, h'⟩ | ⟨h, h'⟩ | ⟨h, h'⟩
  · rw [decodeOffer_sync1 b h]
    exact ⟨_, _, rfl, by simpa only [State.stored, h] using OfferCase.sync1 (b := b) h⟩
  · rw [decodeOffer_sync2 b h]
    exact ⟨_, _, rfl, by simpa only [State.stored, h] using OfferCase.sync2 (b := b) h⟩
  · rw [decodeOffer_lenh b h]
    exact ⟨_, _, rfl, by simpa only [State.stored, h] using OfferCase.lenh (b := b) h⟩
  · rw [decodeOffer_lenl b h]
    have hl := State.resolveLength_stored_toNat b h
    have e : operate (.offerLenl b) s = if exceedsCapacity (s.stored b).resolveLength.expectedLength then
        ((s.stored b).resolveLength.setCursor 0).finish .frameTooLarge
        else ((s.stored b).resolveLength.setCursor 4).finish .pending := by rw [State.stored, h]; rfl
    rw [e]
    by_cases hx : exceedsCapacity (s.stored b).resolveLength.expectedLength = true
    · rw [if_pos hx]; exact ⟨_, _, rfl, .lenlTooLarge h (by rwa [exceedsCapacity_iff, hl] at hx)⟩
    · rw [if_neg hx]; exact ⟨_, _, rfl, .lenlFits h (by rw [exceedsCapacity_iff, hl] at hx; omega)⟩
  · rw [decodeOffer_over b h h']
    exact ⟨_, _, rfl, .pastEnd h h'⟩
  · rw [decodeOffer_last b h h']
    have h2 : 2 ≤ s.expectedLength.toNat := by omega
    cases hm : checksumMatches (s.stored b).buf s.expectedLength.toNat with
    | true => exact ⟨_, _, measureFrame_of_match (s := (s.stored b).setCursor 0) h2 (hok h) hm, .lastMatch h h' hm⟩
    | false =>
      exact ⟨_, _, measureFrame_of_mismatch (s := (s.stored b).setCursor 0) h2 (hok h) hm, .lastMismatch h h' hm⟩
  · rw [decodeOffer_body b h h']
    have h32 := hok h
    refine ⟨_, _, ?_, .body h h' h32⟩
    change runOfferBody b s = _
    rw [runOfferBody, if_pos ⟨h32, by simp only [Config.capacity]; omega⟩]

/-- An `offer` whose state is not refused does what its case says, and returns its result. -/
theorem offer_next (b : Byte) (s : State) (hok : 4 ≤ s.cursor.toNat → s.expectedLength.toNat ≤ 32) :
    ∃ t r, offer b s = .next t ∧ offerReturns b s = .result r ∧ OfferCase b s t r := by
  obtain ⟨t, r, h, hcase⟩ := offerOp_ok b s hok
  exact ⟨t, r, by rw [offer_eq_offerOp, h]; rfl, by rw [offerReturns_eq_offerOp, h]; rfl, hcase⟩

/-- With `cursor >= 4` and `expectedLength > 32` an `offer` is refused (U1). -/
theorem offer_refused (b : Byte) (s : State) (hc : 4 ≤ s.cursor.toNat) (h : 32 < s.expectedLength.toNat) :
    offer b s = .refused .outsideReachableStates := by
  have hlt := s.cursor.isLt
  rw [offer_eq_offerOp, offerOp, decodeOffer_body b hc (by omega)]
  change (runOfferBody b s).toStep = _
  rw [runOfferBody, if_neg (by simp only [Config.capacity]; omega)]
  rfl

/-- Inversion of `offer`. -/
theorem offer_cases {b : Byte} {s t : State} (h : offer b s = .next t) :
    ∃ r, offerReturns b s = .result r ∧ OfferCase b s t r := by
  by_cases hr : 4 ≤ s.cursor.toNat ∧ 32 < s.expectedLength.toNat
  · rw [offer_refused b s hr.1 hr.2] at h; cases h
  · obtain ⟨u, r, hu, hret, hcase⟩ := offer_next b s (by omega)
    rw [h] at hu; cases hu; exact ⟨r, hret, hcase⟩

/-! ### One step -/

/-- A step without `rst` on which a byte is driven is the `offer` of that byte, and returns what it returns. -/
theorem step_eq_offer {s : State} (hr : s.sample.rst = false) (hv : s.sample.inValid = true) :
    step s = offer s.sample.inByte s.takeInput := by
  unfold step
  simp [decode, State.dispatch, hr, hv, offer_eq_offerOp, exec_eq_operate, offerOp]

/-- What such a step returns. -/
theorem stepReturns_eq_offer {s : State} (hr : s.sample.rst = false) (hv : s.sample.inValid = true) :
    stepReturns s = offerReturns s.sample.inByte s.takeInput := by
  unfold stepReturns
  simp [decode, State.dispatch, hr, hv, offerReturns_eq_offerOp, returns, offerOp]

theorem step_eq_construct {s : State} (hr : s.sample.rst = true) : step s = .next s.takeInput.construct := by
  unfold step
  simp [decode, State.dispatch, hr, exec, execReset, runReset]

theorem stepReturns_of_rst {s : State} (hr : s.sample.rst = true) : stepReturns s = .nothing := by
  unfold stepReturns
  simp [decode, State.dispatch, hr, returns, operate, runReset]

theorem step_eq_quiet {s : State} (hr : s.sample.rst = false) (hv : s.sample.inValid = false) :
    step s = .next s.takeInput := by
  unfold step
  simp [decode, State.dispatch, hr, hv]

theorem stepReturns_of_quiet {s : State} (hr : s.sample.rst = false) (hv : s.sample.inValid = false) :
    stepReturns s = .nothing := by
  unfold stepReturns
  simp [decode, State.dispatch, hr, hv]

/-- Inversion of `step`. -/
theorem step_cases {s t : State} (h : step s = .next t) :
    (s.sample.rst = true ∧ t = s.takeInput.construct ∧ stepReturns s = .nothing) ∨
    (s.sample.rst = false ∧ s.sample.inValid = false ∧ t = s.takeInput ∧ stepReturns s = .nothing) ∨
    (s.sample.rst = false ∧ s.sample.inValid = true ∧
      ∃ r, stepReturns s = .result r ∧ OfferCase s.sample.inByte s.takeInput t r) := by
  cases hr : s.sample.rst with
  | true =>
    rw [step_eq_construct hr] at h; cases h
    exact .inl ⟨rfl, rfl, stepReturns_of_rst hr⟩
  | false =>
    cases hv : s.sample.inValid with
    | false =>
      rw [step_eq_quiet hr hv] at h; cases h
      exact .inr (.inl ⟨rfl, rfl, rfl, stepReturns_of_quiet hr hv⟩)
    | true =>
      rw [step_eq_offer hr hv] at h
      obtain ⟨r, hret, hcase⟩ := offer_cases h
      exact .inr (.inr ⟨rfl, rfl, r, (stepReturns_eq_offer hr hv).trans hret, hcase⟩)

end Sys2Proof.Machine
end

