-- ==== Sys2Proof/Laws/Input.lean ====
section
/-! SUPPORT. The port samples that are still to come take no part in what an operation does: an operation on a state with
other ones does and returns the same. -/

namespace Sys2Proof.Machine

/-- The same operation with other port samples to come. -/
def withInput (l : List PortInput) : Op → Op
  | .ok x => .ok { x with state := { x.state with input := l } }
  | .error r => .error r

@[simp] theorem withInput_returned (l : List PortInput) (x : Op) : (withInput l x).returned = x.returned := by cases x <;> rfl

theorem State.decodeFrame_with_input (s : State) (l : List PortInput) :
    ({ s with input := l } : State).decodeFrame = { s.decodeFrame with input := l } := by
  have e : ({ s with input := l } : State).classify.extractPm.sensorVariant = s.classify.extractPm.sensorVariant := rfl
  unfold State.decodeFrame
  dsimp only
  rw [e]
  by_cases hv : s.classify.extractPm.sensorVariant = .variantB
  · rw [if_pos hv, if_pos hv]; rfl
  · rw [if_neg hv, if_neg hv]; rfl

theorem measureFrame_with_input (s : State) (l : List PortInput) :
    measureFrame { s with input := l } = withInput l (measureFrame s) := by
  unfold measureFrame
  rw [State.decodeFrame_with_input]
  dsimp only
  split
  · split <;> rfl
  · rfl

/-- An operation does the same whatever the environment drives later. -/
theorem operate_with_input (i : Instr) (s : State) (l : List PortInput) (hi : i ≠ .reset) :
    operate i { s with input := l } = withInput l (operate i s) := by
  cases i with
  | offerLenl b =>
    simp only [operate, runOfferLenl]
    by_cases h : exceedsCapacity (s.storeByte 3 b).resolveLength.expectedLength = true
    · rw [if_pos h, if_pos (show exceedsCapacity (({ s with input := l } : State).storeByte 3 b).resolveLength.expectedLength = true from h)]; rfl
    · rw [if_neg h, if_neg (show ¬ exceedsCapacity (({ s with input := l } : State).storeByte 3 b).resolveLength.expectedLength = true from h)]; rfl
  | offerBody b =>
    simp only [operate, runOfferBody]
    split <;> rfl
  | offerLast b => exact measureFrame_with_input ((s.stored b).setCursor 0) l
  | measure => exact measureFrame_with_input s l
  | chksum =>
    simp only [operate, runChksum]
    split <;> rfl
  | be16 i =>
    simp only [operate, runBe16]
    split <;> rfl
  | reset => exact absurd rfl hi
  | _ => rfl

theorem decodeOffer_ne_reset (c : Cursor) (e : TotalLength) (b : Byte) : decodeOffer c e b ≠ .reset := by
  unfold decodeOffer
  repeat' split
  all_goals simp

/-- The next step of a state whose next port sample offers `b`. -/
theorem step_of_offer_sample {b : Byte} {s t : State} (h : offer b s = .next t) (l : List PortInput) :
    step { s with input := .offer b :: l } = .next { t with input := l } := by
  have e : step { s with input := .offer b :: l } = offer b { s with input := l } := rfl
  rw [offer_eq_offerOp] at h
  have e' : offerOp b { s with input := l } = withInput l (offerOp b s) := operate_with_input _ s l (decodeOffer_ne_reset _ _ _)
  rw [e, offer_eq_offerOp, e']
  cases hx : offerOp b s with
  | ok x => rw [hx] at h; cases h; rfl
  | error r => rw [hx] at h; cases h

end Sys2Proof.Machine
end

