-- ==== Sys2Proof/Laws/PerInstr.lean ====
section
/-! SUPPORT. The family `Encoding` of LAWS.json: an operation's encoding is selected by its own row of spec/opcode_table.json
(R91), RESET's by the `rst` port, and the internal rows have none. One lemma per constructor of Instr. -/

namespace Sys2Proof.Laws.Encoding

/-- What R91 says of the operation's row. -/
def Statement (i : Instr) : Prop :=
  match encode i with
  | none => i.isInternal = true
  | some d => (d.rst = true ∧ i = .reset) ∨ (d.rst = false ∧ d.inValid = true ∧
      ∃ r ∈ offerRows, r.mnemonic = i.mnemonic ∧ r.selects d.cursor d.expectedLength = true ∧ r.instr d.inByte = i)

theorem offerSync1 (b : Byte) : Statement (.offerSync1 b) :=
  .inr ⟨rfl, rfl, ⟨"OFFER.SYNC1", 0x00, 0x1F, fun _ _ => true, .offerSync1⟩,
    by simp [offerRows], rfl, by simp [OfferRow.selects, DispatchWord.offer], rfl⟩

theorem offerSync2 (b : Byte) : Statement (.offerSync2 b) :=
  .inr ⟨rfl, rfl, ⟨"OFFER.SYNC2", 0x01, 0x1F, fun _ _ => true, .offerSync2⟩,
    by simp [offerRows], rfl, by simp [OfferRow.selects, DispatchWord.offer], rfl⟩

theorem offerLenh (b : Byte) : Statement (.offerLenh b) :=
  .inr ⟨rfl, rfl, ⟨"OFFER.LENH", 0x02, 0x1F, fun _ _ => true, .offerLenh⟩,
    by simp [offerRows], rfl, by simp [OfferRow.selects, DispatchWord.offer], rfl⟩

theorem offerLenl (b : Byte) : Statement (.offerLenl b) :=
  .inr ⟨rfl, rfl, ⟨"OFFER.LENL", 0x03, 0x1F, fun _ _ => true, .offerLenl⟩,
    by simp [offerRows], rfl, by simp [OfferRow.selects, DispatchWord.offer], rfl⟩

theorem offerOver (b : Byte) : Statement (.offerOver b) :=
  .inr ⟨rfl, rfl, ⟨"OFFER.OVER", 0x00, 0x00, fun c e => decide (4 ≤ c ∧ c + 1 > e), .offerOver⟩,
    by simp [offerRows], rfl, by simp [OfferRow.selects, DispatchWord.offer], rfl⟩

theorem offerLast (b : Byte) : Statement (.offerLast b) :=
  .inr ⟨rfl, rfl, ⟨"OFFER.LAST", 0x00, 0x00, fun c e => decide (4 ≤ c ∧ c + 1 = e), .offerLast⟩,
    by simp [offerRows], rfl, by simp [OfferRow.selects, DispatchWord.offer], rfl⟩

theorem offerBody (b : Byte) : Statement (.offerBody b) :=
  .inr ⟨rfl, rfl, ⟨"OFFER.BODY", 0x00, 0x00, fun c e => decide (4 ≤ c ∧ c + 1 < e), .offerBody⟩,
    by simp [offerRows], rfl, by simp [OfferRow.selects, DispatchWord.offer], rfl⟩

theorem measure : Statement .measure := rfl

theorem chksum : Statement .chksum := rfl

theorem be16 (i : Nat) : Statement (.be16 i) := rfl

theorem classify : Statement .classify := rfl

theorem extractPm : Statement .extractPm := rfl

theorem extractBins : Statement .extractBins := rfl

theorem reset : Statement .reset := .inl ⟨rfl, rfl⟩

end Sys2Proof.Laws.Encoding
end

