-- ==== Sys2Proof/Laws/Stream.lean ====
section
/-! SUPPORT. What every case of `offer` has in common, and how `feed` composes. -/

namespace Sys2Proof.Machine

namespace OfferCase
variable {b : Byte} {s t : State} {r : Result}

/-- The one store (R50). -/
theorem buf_eq (h : OfferCase b s t r) : t.buf = s.buf.write s.cursor.toNat b := by cases h <;> simp

theorem input_eq (h : OfferCase b s t r) : t.input = s.input := by cases h <;> simp

end OfferCase

/-! ### `feed` -/

theorem feed_nil (s : State) : feed [] s = some ([], s) := rfl

theorem feed_cons {b : Byte} {s t : State} {r : Result} (h : offer b s = .next t) (hr : offerReturns b s = .result r)
    (bs : List Byte) : feed (b :: bs) s = (feed bs t).map fun p => (r :: p.1, p.2) := by
  simp [feed, h, hr]

/-- A `feed` that goes through begins with an `offer` that does. -/
theorem feed_cons_some {b : Byte} {bs : List Byte} {s u : State} {rs : List Result} (h : feed (b :: bs) s = some (rs, u)) :
    ∃ t r rs', offer b s = .next t ∧ offerReturns b s = .result r ∧ feed bs t = some (rs', u) ∧ rs = r :: rs' := by
  unfold feed at h
  cases ho : offer b s with
  | next t =>
    simp only [ho] at h
    cases hr : offerReturns b s with
    | result r =>
      simp only [hr, Option.map_eq_some_iff, Prod.mk.injEq] at h
      obtain ⟨⟨rs', v⟩, hf, rfl, rfl⟩ := h
      exact ⟨t, r, rs', rfl, rfl, hf, rfl⟩
    | nothing => simp [hr] at h
    | check ok => simp [hr] at h
    | word v => simp [hr] at h
  | fault r => simp [ho] at h
  | refused r => simp [ho] at h

/-- `feed` of a concatenation is one `feed` after the other. -/
theorem feed_append {as : List Byte} {s t : State} {rs : List Result} (h : feed as s = some (rs, t)) (bs : List Byte) :
    feed (as ++ bs) s = (feed bs t).map fun p => (rs ++ p.1, p.2) := by
  induction as generalizing s rs with
  | nil =>
    simp only [feed_nil, Option.some.injEq, Prod.mk.injEq] at h
    obtain ⟨rfl, rfl⟩ := h
    simp
  | cons a as ih =>
    obtain ⟨u, r, rs', ho, hr, hf, rfl⟩ := feed_cons_some h
    rw [List.cons_append, feed_cons ho hr, ih hf, Option.map_map]
    rfl

/-- One more byte at the end. -/
theorem feed_snoc {as : List Byte} {b : Byte} {s t u : State} {rs : List Result} {r : Result}
    (h : feed as s = some (rs, t)) (ho : offer b t = .next u) (hr : offerReturns b t = .result r) :
    feed (as ++ [b]) s = some (rs ++ [r], u) := by
  rw [feed_append h, feed_cons ho hr]; rfl

/-- The last byte of a `feed` that goes through. -/
theorem feed_snoc_some {as : List Byte} {b : Byte} {s u : State} {rs : List Result} (h : feed (as ++ [b]) s = some (rs, u)) :
    ∃ rs' t r, feed as s = some (rs', t) ∧ offer b t = .next u ∧ offerReturns b t = .result r ∧ rs = rs' ++ [r] := by
  induction as generalizing s rs with
  | nil =>
    obtain ⟨t, r, rs', ho, hr, hf, rfl⟩ := feed_cons_some h
    simp only [feed_nil, Option.some.injEq, Prod.mk.injEq] at hf
    obtain ⟨rfl, rfl⟩ := hf
    exact ⟨[], s, r, rfl, ho, hr, rfl⟩
  | cons a as ih =>
    obtain ⟨v, r, rs', ho, hr, hf, rfl⟩ := feed_cons_some h
    obtain ⟨rs'', t, r', hf', ho', hr', rfl⟩ := ih hf
    refine ⟨r :: rs'', t, r', ?_, ho', hr', rfl⟩
    rw [feed_cons ho hr, hf']; rfl

/-- One result per byte. -/
theorem feed_length {bs : List Byte} {s t : State} {rs : List Result} (h : feed bs s = some (rs, t)) :
    rs.length = bs.length := by
  induction bs generalizing s rs with
  | nil =>
    simp only [feed_nil, Option.some.injEq, Prod.mk.injEq] at h
    simp [← h.1]
  | cons b bs ih =>
    obtain ⟨u, r, rs', -, -, hf, rfl⟩ := feed_cons_some h
    simp [ih hf]

end Sys2Proof.Machine
end

