-- ==== Sys2Proof/Tests/Slice0.lean ====
section
/-! SUPPORT. Tests of one step each, their expected results from the vectors and examples of the spec (named beside each; no
value comes from the model), and one witness per obligation that has hypotheses. -/

namespace Sys2Proof.Tests

open Sys2Proof.Machine

/-! ### Small states -/

/-- A buffer holding these bytes from slot 0 on. -/
def load (l : List Byte) : Memory := l.zipIdx.foldl (fun m p => m.write p.2 p.1) []

/-- A state with a buffer, a cursor and a length; the variant VariantA, the fields 1 to 9, nothing on the ports. -/
def st (l : List Byte) (c : Cursor) (e : TotalLength) : State where
  buf := load l
  cursor := c
  expectedLength := e
  sensorVariant := .variantA
  fields := ⟨1, 2, 3, 4, 5, 6, 7, 8, 9⟩
  input := []

/-- The next state of an outcome. -/
def after : Host.Outcome State Fault Refusal → Option State
  | .next t => some t
  | .fault _ => none
  | .refused _ => none

/-- The next state of an `offer`, with what it returned. -/
def offering (b : Byte) (s : State) : Option (State × Returned) := (after (offer b s)).map fun t => (t, offerReturns b s)

/-- The next state of an operation, with what it returned. -/
def executing (i : Instr) (s : State) : Option (State × Returned) := (after (exec i s)).map fun t => (t, returns i s)

/-- The refusal of an outcome. -/
def refusal : Host.Outcome State Fault Refusal → Option Refusal
  | .next _ => none
  | .fault _ => none
  | .refused r => some r

/-- FB without its last byte (95_test_vectors.md section 2.1). -/
def fbHead : List Byte :=
  [0x42, 0x4D, 0x00, 0x1C, 0x00, 0x05, 0x00, 0x08, 0x00, 0x0A, 0x00, 0x05, 0x00, 0x08, 0x00, 0x0A,
   0x03, 0x00, 0x00, 0xE1, 0x00, 0x25, 0x00, 0x04, 0x00, 0x02, 0x00, 0x01, 0x97, 0x00, 0x02]

/-- The shortest passing frame (R146). -/
def shortest : List Byte := [0x42, 0x4D, 0x00, 0x02, 0x00, 0x91]

/-! ### WellFormed: each check refuses an ill-formed term -/

theorem test_wellFormed_be16_index_31_refused : (Instr.be16 31).wellFormed = false := by decide

theorem test_wellFormed_be16_index_30 : (Instr.be16 30).wellFormed = true := by decide

/-! ### Decode: every row, from the dispatch word `cursor[4:0]`, the byte and the conditions of the table (R90, R91, R34) -/

theorem test_decode_sync1 : decode ⟨false, true, 0x41, 0b00000, 24⟩ = .ok (.offerSync1 0x41) := rfl
theorem test_decode_sync2 : decode ⟨false, true, 0x4D, 0b00001, 0⟩ = .ok (.offerSync2 0x4D) := rfl
theorem test_decode_lenh : decode ⟨false, true, 0xFF, 0b00010, 0⟩ = .ok (.offerLenh 0xFF) := rfl
theorem test_decode_lenl : decode ⟨false, true, 0x1C, 0b00011, 0⟩ = .ok (.offerLenl 0x1C) := rfl
theorem test_decode_over : decode ⟨false, true, 0x42, 0b00100, 4⟩ = .ok (.offerOver 0x42) := rfl
theorem test_decode_over_cursor_10 : decode ⟨false, true, 0x42, 0b01010, 6⟩ = .ok (.offerOver 0x42) := rfl
theorem test_decode_last : decode ⟨false, true, 0x80, 0b11111, 32⟩ = .ok (.offerLast 0x80) := rfl
theorem test_decode_body : decode ⟨false, true, 0x02, 0b11110, 32⟩ = .ok (.offerBody 0x02) := rfl
theorem test_decode_reset : decode ⟨true, true, 0x42, 0b00000, 0⟩ = .ok .reset := rfl
theorem test_decode_quiet : decode ⟨false, false, 0x42, 0b00000, 0⟩ = .error .noOperation := rfl

/-- Bits: no offer 31, rst 30, expectedLength 29 to 13, in_byte 12 to 5, cursor 4 to 0 (log 4). -/
theorem test_decodeWord_last : decodeTableWord 32 0b00_00000000000100000_10000000_11111 = some (.offerLast 0x80) := by decide
theorem test_decodeWord_lenl : decodeTableWord 8 0b00011 = some (.offerLenl 0) := by decide
theorem test_decodeWord_bit_above_the_word : decodeTableWord 8 0x100 = none := by decide

theorem test_internal_rows_have_no_encoding :
    [Instr.measure, .chksum, .be16 0, .classify, .extractPm, .extractBins].map encode = List.replicate 6 none := by decide

/-! ### OFFER.SYNC1, OFFER.SYNC2 -/

/-- V-SYNC-2. -/
theorem test_sync1_marker : (offering 0x42 (st [] 0 0)).map (fun (t, r) => (t.cursor, t.buf.read 0, r)) =
    some (1, 0x42, .result .pending) := by decide

/-- V-SYNC-8. -/
theorem test_sync1_second_marker_is_noise : (after (offer 0x4D (st [0x42] 0 0))).map (fun t => (t.cursor, t.buf.read 0)) =
    some (0, 0x4D) := by decide

/-- V-SYNC-3. -/
theorem test_sync2_marker : (offering 0x4D (st [0x42] 1 0)).map (fun (t, r) => (t.cursor, t.buf.read 1, r)) =
    some (2, 0x4D, .result .pending) := by decide

/-- V-SYNC-5, index 1: a second 0x42 is consumed by the abort. -/
theorem test_sync2_does_not_reexamine : (after (offer 0x42 (st [0x42] 1 0))).map (fun t => (t.cursor, t.buf.read 1)) =
    some (0, 0x42) := by decide

/-! ### OFFER.LENH, OFFER.LENL -/

/-- V-LEN-9. -/
theorem test_lenh_makes_no_test : (after (offer 0xFF (st [0x42, 0x4D] 2 24))).map (fun t => (t.cursor, t.buf.read 2, t.expectedLength)) =
    some (3, 0xFF, 24) := by decide

/-- V-LEN-1: the largest accepted length. -/
theorem test_lenl_accepts_28 : (offering 0x1C (st [0x42, 0x4D, 0] 3 0)).map (fun (t, r) => (t.cursor, t.expectedLength, r)) =
    some (4, 32, .result .pending) := by decide

/-- V-LEN-4: 17 bits, no wrap to 3. -/
theorem test_lenl_does_not_wrap : (offering 0xFF (st [0x42, 0x4D, 0xFF] 3 0)).map (fun (t, r) => (t.cursor, t.expectedLength, r)) =
    some (0, 65539, .result .frameTooLarge) := by decide

/-! ### OFFER.OVER, OFFER.LAST, OFFER.BODY -/

/-- V-BUF-1. -/
theorem test_over : (offering 0x42 (st [0x42, 0x4D, 0, 0] 4 4)).map (fun (t, r) => (t.cursor, t.buf.read 4, r)) =
    some (0, 0x42, .result .invalidFrameLength) := by decide

/-- V-BUF-5 (P1): Success, VariantB, `bin0_3 = 0300`, `bin0_5 = 00E1`. -/
theorem test_last_success : (offering 0x80 (st fbHead 31 32)).map
      (fun (t, r) => (t.cursor, r, t.sensorVariant, t.fields.bin0_3, t.fields.bin0_5)) =
    some (0, .result .success, .variantB, 0x0300, 0x00E1) := by decide +kernel

/-- V-BUF-2. -/
theorem test_last_checksum_failed : (offering 0x8F (st [0x42, 0x4D, 0, 1] 4 5)).map (fun (t, r) => (t.cursor, t.buf.read 4, r)) =
    some (0, 0x8F, .result .checksumFailed) := by decide

/-- V-BUF-6: a marker byte inside an attempt is data. -/
theorem test_body_marker_is_data : (offering 0x42 (st [0x42, 0x4D, 0, 0x1C] 10 32)).map (fun (t, r) => (t.cursor, t.buf.read 10, r)) =
    some (11, 0x42, .result .pending) := by decide

/-- U1: such a state is refused. -/
theorem test_body_outside_reachable_states : refusal (offer 0 (st [] 4 33)) = some .outsideReachableStates := by decide

/-! ### The internal operations -/

/-- V-EXT-1, its measurement: VariantA, `pm1_0 = 1234`, `pm2_5 = FFFF`, `pm10 = 8000`, the bins as they were. -/
theorem test_measure_success :
    (executing .measure (st [0x42, 0x4D, 0, 8, 0x12, 0x34, 0xFF, 0xFF, 0x80, 0, 3, 0x5B] 0 12)).map (fun (t, r) => (r, t.fields)) =
    some (.result .success, ⟨0x1234, 0xFFFF, 0x8000, 4, 5, 6, 7, 8, 9⟩) := by decide

/-- V-CK-7. -/
theorem test_measure_checksum_failed :
    (executing .measure (st [0x42, 0x4D, 0, 2, 0, 0x90] 0 6)).map (fun (t, r) => (r, t.fields.pm1_0)) =
    some (.result .checksumFailed, 1) := by decide

/-- V-CK-6 and V-CK-7. -/
theorem test_chksum : (executing .chksum (st shortest 0 6)).map (·.2) = some (.check true) ∧
    (executing .chksum (st [0x42, 0x4D, 0, 2, 0, 0x90] 0 6)).map (·.2) = some (.check false) := by decide

/-- The table of section 2.4. -/
theorem test_be16_big_endian : (executing (.be16 1) (st [0, 0x12, 0x34] 0 0)).map (·.2) = some (.word 0x1234) := by decide
theorem test_be16_unsigned : (executing (.be16 0) (st [0xFF, 0] 0 0)).map (·.2) = some (.word 0xFF00) := by decide

/-- R151's examples. -/
theorem test_classify : (after (exec .classify (st [] 0 31))).map (·.sensorVariant) = some .variantA ∧
    (after (exec .classify (st [] 0 32))).map (·.sensorVariant) = some .variantB := by decide

/-- R152's example. -/
theorem test_extractPm : (after (exec .extractPm (st [0, 0, 0, 0, 0, 5, 0, 8, 0, 0x0A] 0 0))).map (·.fields) =
    some ⟨5, 8, 10, 4, 5, 6, 7, 8, 9⟩ := by decide

/-- R153's example. -/
theorem test_extractBins : (after (exec .extractBins (st fbHead 0 32))).map (·.fields) =
    some ⟨1, 2, 3, 768, 225, 37, 4, 2, 1⟩ := by decide

/-! ### RESET and the ports -/

/-- V-RST-1. -/
theorem test_reset : (after (exec .reset (st shortest 5 6))).map (fun t => (t.buf, t.cursor, t.expectedLength, t.sensorVariant)) =
    some ([], 0, 0, .unknown) := by decide

/-- V-RST-1: the fields are FIELD_RESET, whatever it is. -/
theorem test_reset_fields : (after (exec .reset (st shortest 5 6))).map (·.fields) = some Config.fieldReset := rfl

/-- R34, R183: `rst` overrides `in_valid`. -/
theorem test_rst_overrides_offer : (after (step { st [] 0 0 with input := [⟨true, true, 0x42⟩] })).map (·.cursor) = some 0 ∧
    (State.outputs { st [] 0 0 with input := [⟨true, true, 0x42⟩] }).resultValid = false := by decide

/-- R34, R92, R93: the result code stands at the port in the step of its own `offer`; the variant port shows the register. -/
theorem test_outputs_of_the_last_byte : (State.outputs { st fbHead 31 32 with input := [.offer 0x80] }).result = some 1 ∧
    (State.outputs { st fbHead 31 32 with input := [.offer 0x80] }).variant = 1 ∧
    (after (offer 0x80 (st fbHead 31 32))).map (·.outputs.variant) = some 2 := by decide +kernel

/-- R34: with neither asserted nothing happens; the buffer is canonical (a stored 0 is not listed). -/
theorem test_quiet_and_canonical : (after (step (st [7] 0 0))).map (·.buf) = some [(0, 7)] ∧ (st [7] 0 0).outputs.result = none ∧
    (after (offer 0 (st [7] 0 0))).map (·.buf) = some [] := by decide

/-! ### The placed table word runs as the first operation -/

theorem test_withFetchWord_from_reset :
    (after (step (State.reset.withFetchWord 8 0x02))).map (·.cursor) = some 3 ∧
    stepReturns (State.reset.withFetchWord 8 0x02) = .result .pending := by decide

/-! ### Witnesses: states and operands that meet the hypotheses of the obligations -/

theorem st_inv_idle : StateInv (st [] 0 0) :=
  ⟨by decide, by decide, by decide, by decide, by decide, by decide, by decide, nofun⟩

theorem st_inv_attempt : StateInv (st [0x42, 0x4D, 0, 0x1C] 4 32) :=
  ⟨by decide, by decide, by decide, by decide, by decide, by decide, by decide, nofun⟩

theorem st_inv_length_zero : StateInv (st [0x42, 0x4D, 0, 0] 4 4) :=
  ⟨by decide, by decide, by decide, by decide, by decide, by decide, by decide, nofun⟩

theorem st_inv_last_slot : StateInv (st fbHead 31 32) :=
  ⟨by decide, by decide, by decide, by decide, by decide, by decide, by decide, nofun⟩

theorem shortest_wellFormed : WellFormedFrame shortest :=
  ⟨by decide, by decide, by decide, by decide, by decide, by decide⟩

theorem fb_wellFormed : WellFormedFrame (fbHead ++ [0x80]) :=
  ⟨by decide, by decide, by decide, by decide, by decide, by decide⟩

theorem witness_RstPortOverridesOffer : ∃ s : State, s.input = [⟨true, true, 0x42⟩] := ⟨{ st [] 0 0 with input := [⟨true, true, 0x42⟩] }, rfl⟩

theorem witness_QuietStepChangesNothing : (st [] 0 0).sample.rst = false ∧ (st [] 0 0).sample.inValid = false := by decide

theorem witness_StepRunsTheDecodedOperation :
    decode (State.dispatch { st [] 0 0 with input := [PortInput.offer 0x42] }) = .ok (.offerSync1 0x42) := rfl

theorem witness_DecodeOfEncodeIsTheOperation : (Instr.offerBody 0xFF).wellFormed = true ∧ (Instr.offerBody 0xFF).isInternal = false := by decide

theorem witness_PlacedWordRunsNext : decodeTableWord 8 0x03 = some (.offerLenl 0) ∧ decodeTableWord 32 0xA004 = some (.offerLast 0) := by decide

/-- Both clauses of OFFER.LENL at their boundary: 28 and 29. -/
theorem witness_OfferLenlEffect : 256 * ((st [0x42, 0x4D] 3 0).buf.read 2).toNat + (0x1C : Byte).toNat + 4 ≤ 32 ∧
    256 * ((st [0x42, 0x4D] 3 0).buf.read 2).toNat + (0x1D : Byte).toNat + 4 > 32 := by decide

theorem witness_OfferLastEffect : 2 ≤ (st fbHead 31 32).expectedLength.toNat ∧ (st fbHead 31 32).expectedLength.toNat ≤ 32 := by decide

theorem witness_OfferBodyEffect : (st fbHead 30 32).expectedLength.toNat ≤ 32 ∧ (st fbHead 30 32).cursor.toNat < 31 := by decide

/-- CHKSUM fails; it passes and the variant is B; it passes and the variant is A. -/
theorem witness_MeasureRunsItsParts :
    returns .chksum (st [0x42, 0x4D, 0, 2, 0, 0x90] 0 6) = .check false ∧
    (returns .chksum (st (fbHead ++ [0x80]) 0 32) = .check true ∧ ∃ c p, exec .classify (st (fbHead ++ [0x80]) 0 32) = .next c ∧
      exec .extractPm c = .next p ∧ p.sensorVariant = .variantB) ∧
    (returns .chksum (st shortest 0 6) = .check true ∧ ∃ c p, exec .classify (st shortest 0 6) = .next c ∧
      exec .extractPm c = .next p ∧ p.sensorVariant ≠ .variantB) :=
  ⟨by decide, ⟨by decide, _, _, rfl, rfl, by decide⟩, by decide, _, _, rfl, rfl, by decide⟩

/-- The three clauses: a mismatch, a match at a total length other than 32, a match at 32. -/
theorem witness_MeasureEffect :
    ((List.range (6 - 2)).map fun i => ((st [0x42, 0x4D, 0, 2, 0, 0x90] 0 6).buf.read i).toNat).sum % 65536 ≠ 256 * 0 + 0x90 ∧
    ((List.range (6 - 2)).map fun i => ((st shortest 0 6).buf.read i).toNat).sum % 65536 = 256 * 0 + 0x91 ∧
    ((List.range (32 - 2)).map fun i => ((st (fbHead ++ [0x80]) 0 32).buf.read i).toNat).sum % 65536 = 256 * 0x02 + 0x80 := by decide

theorem witness_ChksumEffect : 2 ≤ (st shortest 0 6).expectedLength.toNat ∧ (st shortest 0 6).expectedLength.toNat ≤ 32 := by decide

theorem witness_Be16Effect : (0 : Nat) ≤ 30 ∧ (30 : Nat) ≤ 30 := by decide

theorem witness_ClassifyEffect : (st [] 0 32).expectedLength.toNat = 32 ∧ (st [] 0 31).expectedLength.toNat ≠ 32 := by decide

theorem witness_IndexOutsideBufferIsRefused : 30 < 31 ∧ (st [] 0 1).expectedLength.toNat < 2 ∧ 32 < (st [] 0 33).expectedLength.toNat := by decide

/-- V-CK-8 and V-CK-6: total lengths 32 and 6. -/
theorem witness_ChecksumSumIsBounded :
    ((load shortest).read 0 = 0x42 ∧ (load shortest).read 1 = 0x4D ∧ (load shortest).read 2 = 0 ∧ ((load shortest).read 3).toNat + 4 = 6) ∧
    ((load fbHead).read 0 = 0x42 ∧ (load fbHead).read 1 = 0x4D ∧ (load fbHead).read 2 = 0 ∧ ((load fbHead).read 3).toNat + 4 = 32) := by decide

/-- An `offer` that answers a next state, on each line of the table of R23 (the hypothesis of the rules over every `offer`). -/
theorem witness_offer_next :
    (∃ t, offer 0x42 (st [] 0 0) = .next t) ∧ (∃ t, offer 0x41 (st [] 0 0) = .next t) ∧
    (∃ t, offer 0x4D (st [0x42] 1 0) = .next t) ∧ (∃ t, offer 0x42 (st [0x42] 1 0) = .next t) ∧
    (∃ t, offer 0xFF (st [0x42, 0x4D] 2 0) = .next t) ∧
    (∃ t, offer 0x1C (st [0x42, 0x4D] 3 0) = .next t) ∧ (∃ t, offer 0x1D (st [0x42, 0x4D] 3 0) = .next t) ∧
    (∃ t, offer 0 (st [0x42, 0x4D] 4 4) = .next t) ∧ (∃ t, offer 0x8F (st [0x42, 0x4D, 0, 1] 4 5) = .next t) ∧
    (∃ t, offer 0 (st [0x42, 0x4D, 0, 0x1C] 4 32) = .next t) :=
  ⟨⟨_, rfl⟩, ⟨_, rfl⟩, ⟨_, rfl⟩, ⟨_, rfl⟩, ⟨_, rfl⟩, ⟨_, rfl⟩, ⟨_, rfl⟩, ⟨_, rfl⟩, ⟨_, rfl⟩, ⟨_, rfl⟩⟩

/-- Success with total length 32 (VariantB), Success with another (VariantA), and a result other than Success. -/
theorem witness_FieldsChangeOnlyOnSuccess :
    (∃ t, offer 0x80 (st fbHead 31 32) = .next t ∧ offerReturns 0x80 (st fbHead 31 32) = .result .success) ∧
    (∃ t, offer 0x91 (st [0x42, 0x4D, 0, 2, 0] 5 6) = .next t ∧ offerReturns 0x91 (st [0x42, 0x4D, 0, 2, 0] 5 6) = .result .success) ∧
    (∃ t, offer 0x90 (st [0x42, 0x4D, 0, 2, 0] 5 6) = .next t ∧ offerReturns 0x90 (st [0x42, 0x4D, 0, 2, 0] 5 6) ≠ .result .success) :=
  ⟨⟨_, rfl, by decide⟩, ⟨_, rfl, by decide⟩, ⟨_, rfl, by decide⟩⟩

theorem witness_VariantNeverReturnsToUnknown : ∃ t, step (st [] 0 0) = .next t ∧ (st [] 0 0).sample.rst = false ∧
    (st [] 0 0).sensorVariant ≠ .unknown := ⟨_, rfl, by decide, by decide⟩

/-- Each of the three error results (also for `FrameAfterAnErrorSucceeds`, with `shortest_wellFormed` and `fb_wellFormed`). -/
theorem witness_ErrorResultsOnlyResetTheCursor :
    (∃ t, offer 0x1D (st [0x42, 0x4D] 3 0) = .next t ∧ offerReturns 0x1D (st [0x42, 0x4D] 3 0) = .result .frameTooLarge) ∧
    (∃ t, offer 0 (st [0x42, 0x4D] 4 4) = .next t ∧ offerReturns 0 (st [0x42, 0x4D] 4 4) = .result .invalidFrameLength) ∧
    (∃ t, offer 0x8F (st [0x42, 0x4D, 0, 1] 4 5) = .next t ∧ offerReturns 0x8F (st [0x42, 0x4D, 0, 1] 4 5) = .result .checksumFailed) ∧
    Result.isError .frameTooLarge = true ∧ Result.isError .invalidFrameLength = true ∧ Result.isError .checksumFailed = true :=
  ⟨⟨_, rfl, by decide⟩, ⟨_, rfl, by decide⟩, ⟨_, rfl, by decide⟩, rfl, rfl, rfl⟩

theorem witness_FrameAfterAnErrorSucceeds : WellFormedFrame shortest ∧ ∃ t, offer 0 (st [0x42, 0x4D] 4 4) = .next t ∧
    offerReturns 0 (st [0x42, 0x4D] 4 4) = .result .invalidFrameLength ∧ Result.isError .invalidFrameLength = true :=
  ⟨shortest_wellFormed, _, rfl, by decide, rfl⟩

/-- A step of each kind, and two states that differ in variant, fields and later samples. -/
theorem witness_ResultIsAnOutputOfItsOwnStep :
    (∃ t, step { st [] 0 0 with input := [.offer 0x42] } = .next t) ∧ (∃ t, step (st [] 0 0) = .next t) ∧
    (∃ t, step { st [] 0 0 with input := [.reset] } = .next t) ∧
    (st [] 0 0).buf = State.reset.buf ∧ (st [] 0 0).cursor = State.reset.cursor ∧
    (st [] 0 0).expectedLength = State.reset.expectedLength ∧ (st [] 0 0).sample = State.reset.sample :=
  ⟨⟨_, rfl⟩, ⟨_, rfl⟩, ⟨_, rfl⟩, rfl, rfl, rfl, rfl⟩

theorem witness_InvalidFrameLengthOnlyAfterLengthZero : StateInv (st [0x42, 0x4D, 0, 0] 4 4) ∧
    ∃ t, offer 0x42 (st [0x42, 0x4D, 0, 0] 4 4) = .next t := ⟨st_inv_length_zero, _, rfl⟩

theorem witness_EveryStepKeepsTheInvariant : StateInv (st [0x42, 0x4D, 0, 0x1C] 4 32) ∧
    ∃ t, step (st [0x42, 0x4D, 0, 0x1C] 4 32) = .next t := ⟨st_inv_attempt, _, rfl⟩

theorem witness_EveryStepCompletesWithinTheInvariant : StateInv (st [] 0 0) ∧ StateInv (st fbHead 31 32) :=
  ⟨st_inv_idle, st_inv_last_slot⟩

theorem witness_FeedIsTheMachinesRun : ∃ rs t, feed [0x42, 0x41] (st [] 0 0) = some (rs, t) := ⟨_, _, rfl⟩

theorem witness_FrameOfABodyIsWellFormed : ([] : List Byte).length ≤ 26 ∧ (List.replicate 26 (0xFF : Byte)).length ≤ 26 := by decide

/-- The shortest and the longest well-formed frame, from idle; also for `OneCorruptedByteIsDetected`, at the first and last
index it covers. -/
theorem witness_WellFormedFrameIsDecoded : WellFormedFrame shortest ∧ WellFormedFrame (fbHead ++ [0x80]) ∧ (st [] 0 0).cursor = 0 :=
  ⟨shortest_wellFormed, fb_wellFormed, rfl⟩

theorem witness_OneCorruptedByteIsDetected : WellFormedFrame shortest ∧ (st [] 0 0).cursor = 0 ∧ 4 < shortest.length ∧
    5 < shortest.length ∧ (1 : Byte) ≠ byteAt shortest 4 ∧ (0x90 : Byte) ≠ byteAt shortest 5 :=
  ⟨shortest_wellFormed, rfl, by decide, by decide, by decide, by decide⟩

/-- Two idle states that differ in everything else. -/
theorem witness_ResultsDependOnTheBytesAlone : (st [] 0 0).cursor = 0 ∧ State.reset.cursor = 0 := ⟨rfl, rfl⟩

theorem witness_EveryAttemptEnds : (StateInv (st [] 0 0) ∧ (List.replicate 32 (0 : Byte)).length = if (st [] 0 0).cursor = 0 then 32 else 31) ∧
    (StateInv (st fbHead 31 32) ∧ (List.replicate 31 (0 : Byte)).length = if (st fbHead 31 32).cursor = 0 then 32 else 31) :=
  ⟨⟨st_inv_idle, by decide⟩, st_inv_last_slot, by decide⟩

/-- Total lengths 4, 5 and 32. -/
theorem witness_AttemptConsumesItsDeclaredLength :
    ([0x42, 0x4D, 0, 0, 7] : List Byte).length = (if (4 : Nat) = 4 then 5 else 4) ∧ (be16 0 0).toNat + 4 = 4 ∧
    ([0x42, 0x4D, 0, 1, 7] : List Byte).length = (if (5 : Nat) = 4 then 5 else 5) ∧ (be16 0 1).toNat + 4 = 5 ∧
    (fbHead ++ [0x80]).length = (if (32 : Nat) = 4 then 5 else 32) ∧ (be16 0 0x1C).toNat + 4 = 32 := by decide

theorem witness_SlotsBelowTheCursorAreTheLastOffers : ∃ rs t, (st [] 0 0).cursor = 0 ∧ feed [7, 0x42, 0x4D] (st [] 0 0) = some (rs, t) ∧
    t.cursor = 2 := ⟨_, _, rfl, rfl, by decide⟩

/-- From reset: a stream without a Success, and one with. -/
theorem witness_UnknownMeansNoSuccessYet : State.reset.sensorVariant = .unknown ∧
    (∃ rs t, feed [0x42, 0x41] State.reset = some (rs, t)) ∧ (∃ rs t, feed shortest State.reset = some (rs, t)) :=
  ⟨rfl, ⟨_, _, rfl⟩, ⟨_, _, rfl⟩⟩

theorem witness_NoiseWithoutTheMarkerIsIgnored : (0x42 : Byte) ∉ ([0, 0xFF, 0x4D, 0x13] : List Byte) ∧ (st [] 0 0).cursor = 0 := by decide

/-- Every hypothesis of the statements that start from idle (`SynchronizesOnTheMarkerFromIdle`, `FourthByteRefusesLongFrames`,
`LengthsZeroAndOneNeverSucceed`, `ShortestFrameThatPasses`), with the boundary lengths 28 and 29. -/
theorem witness_from_idle : (st [] 0 0).cursor = 0 ∧ State.reset.cursor = 0 ∧
    29 ≤ 256 * (0 : Byte).toNat + (0x1D : Byte).toNat ∧ 256 * (0 : Byte).toNat + (0x1C : Byte).toNat < 29 := by decide

end Sys2Proof.Tests
end

section
/-! The family of 10_state.md: how `cursor` moves (R23), and when `sensorVariant` and the nine fields change (R28). -/

namespace Sys2Proof.Machine

section cases
variable {b : Byte} {s t : State} {r : Result}

/-- Inside a frame that fits the buffer, advancing `cursor` does not wrap its five bits. -/
theorem cursor_succ_toNat {c : Cursor} (h : c.toNat < 31) : (c + 1).toNat = c.toNat + 1 := by bv_omega

/-- A frame whose total length is not 32 keeps the six bins (R151, R154). -/
theorem State.decodeFrame_binsKept (h : s.expectedLength.toNat ≠ 32) : BinsKept s.fields s.decodeFrame.fields := by
  rw [s.decodeFrame_fields_of_variantA h]
  exact ⟨rfl, rfl, rfl, rfl, rfl, rfl⟩

/-- A frame of total length 32 writes the six bins (R153). -/
theorem State.decodeFrame_bins_of_variantB (h : s.expectedLength.toNat = 32) :
    s.decodeFrame.fields.bin0_3 = s.buf.readBe16 16 ∧ s.decodeFrame.fields.bin0_5 = s.buf.readBe16 18 ∧
    s.decodeFrame.fields.bin1_0 = s.buf.readBe16 20 ∧ s.decodeFrame.fields.bin2_5 = s.buf.readBe16 22 ∧
    s.decodeFrame.fields.bin5_0 = s.buf.readBe16 24 ∧ s.decodeFrame.fields.bin10 = s.buf.readBe16 26 := by
  rw [s.decodeFrame_fields_of_variantB h]
  exact ⟨rfl, rfl, rfl, rfl, rfl, rfl⟩

/-- Only a successful measurement writes `sensorVariant` and the fields. -/
theorem OfferCase.outputsKept (h : OfferCase b s t r) (hr : r ≠ .success) : OutputsKept s t := by
  cases h with
  | lastMatch => exact absurd rfl hr
  | _ => exact ⟨rfl, rfl⟩

/-- A Success decodes the state that the store of its last byte left. -/
theorem OfferCase.eq_decodeFrame_of_success (h : OfferCase b s t .success) :
    t = ((s.stored b).setCursor 0).decodeFrame := by
  cases h with
  | lastMatch => rfl

end cases

/-- Settles O30: the cases of one `offer` are the rows of the table, those of OFFER.LAST both ending at 0. -/
theorem cursorMovesAsTheTable : Obligations.CursorMovesAsTheTable := by
  intro b s t h
  obtain ⟨r, -, hcase⟩ := offer_cases h
  cases hcase with
  | sync1 hc => simp [hc, apply_ite BitVec.toNat]
  | sync2 hc => simp [hc, apply_ite BitVec.toNat]
  | lenh hc => simp [hc]
  | lenlTooLarge hc hlong =>
    refine ⟨by omega, by omega, by omega, fun _ => ?_, by omega⟩
    rw [if_neg (Nat.not_le.mpr hlong)]
    rfl
  | lenlFits hc hfits =>
    refine ⟨by omega, by omega, by omega, fun _ => ?_, by omega⟩
    rw [if_pos hfits]
    rfl
  | pastEnd hc hend | lastMatch hc hend | lastMismatch hc hend =>
    refine ⟨by omega, by omega, by omega, by omega, fun _ => ?_⟩
    rw [if_neg (by omega)]
    simp
  | body hc hinside h32 =>
    refine ⟨by omega, by omega, by omega, by omega, fun _ => ?_⟩
    rw [if_pos hinside]
    exact cursor_succ_toNat (by omega)

/-- Settles O31: what is no Success keeps the outputs, and a Success leaves what `decodeFrame` writes. -/
theorem fieldsChangeOnlyOnSuccess : Obligations.FieldsChangeOnlyOnSuccess := by
  intro b s t h
  obtain ⟨r, hret, hcase⟩ := offer_cases h
  rw [hret]
  refine ⟨fun hr => hcase.outputsKept fun e => hr (by rw [e]), fun hr => ?_⟩
  cases hr
  obtain rfl := hcase.eq_decodeFrame_of_success
  obtain ⟨hpm1, hpm2, hpm10⟩ := State.decodeFrame_pm ((s.stored b).setCursor 0)
  rw [State.decodeFrame_buf]
  exact ⟨hpm1, hpm2, hpm10, State.decodeFrame_binsKept (s := (s.stored b).setCursor 0),
    State.decodeFrame_bins_of_variantB (s := (s.stored b).setCursor 0)⟩

end Sys2Proof.Machine
end

section
/-! The family of 40_sync.md: the first marker byte is awaited at cursor 0 (R110). -/

namespace Sys2Proof

/-- The first line of R90, both ways: at every other cursor a later line selects another case. -/
theorem decodeOffer_eq_offerSync1_iff (c : Cursor) (e : TotalLength) (b : Byte) :
    decodeOffer c e b = .offerSync1 b ↔ c.toNat = 0 := by
  refine ⟨fun h => ?_, decodeOffer_sync1 b⟩
  rcases cursor_cases c e with h0 | h1 | h2 | h3 | ⟨h4, hover⟩ | ⟨h4, hlast⟩ | ⟨h4, hbody⟩
  · exact h0
  · simp [decodeOffer_sync2 b h1] at h
  · simp [decodeOffer_lenh b h2] at h
  · simp [decodeOffer_lenl b h3] at h
  · simp [decodeOffer_over b h4 hover] at h
  · simp [decodeOffer_last b h4 hlast] at h
  · simp [decodeOffer_body b h4 hbody] at h

end Sys2Proof

namespace Sys2Proof.Machine

/-- The whole of R110: one store at slot 0, one move of `cursor`, Pending. -/
theorem operate_offerSync1 (b : Byte) (s : State) :
    operate (.offerSync1 b) s = ((s.storeByte 0 b).setCursor (if b = 0x42 then 1 else 0)).answer (.result .pending) := rfl

/-- Settles O12: the store and the move of `cursor` are all that R110 does, so the frame is what these two leave. -/
theorem offerSync1Effect : Obligations.OfferSync1Effect := by
  refine ⟨decodeOffer_eq_offerSync1_iff, fun b s => ?_⟩
  have hop := operate_offerSync1 b s
  refine ⟨_, exec_of_operate hop, ?stored, ?marker, ?noise, returns_of_operate hop, rfl, ⟨rfl, rfl⟩, rfl⟩
  case stored => exact Memory.read_write s.buf 0 b
  case marker => exact fun hb => if_pos hb
  case noise => exact fun hb => if_neg hb

end Sys2Proof.Machine
end

section
/-! The family of 41_length_buffer.md: the first length byte (R120) and a byte inside the frame (R124). -/

namespace Sys2Proof

/-- The condition of R90 that stands at the operation's line. No line selects an internal operation or RESET. -/
def Instr.offerCondition (c : Cursor) (e : TotalLength) : Instr → Prop
  | .offerSync1 _ => c.toNat = 0
  | .offerSync2 _ => c.toNat = 1
  | .offerLenh _ => c.toNat = 2
  | .offerLenl _ => c.toNat = 3
  | .offerOver _ => 4 ≤ c.toNat ∧ c.toNat + 1 > e.toNat
  | .offerLast _ => 4 ≤ c.toNat ∧ c.toNat + 1 = e.toNat
  | .offerBody _ => 4 ≤ c.toNat ∧ c.toNat + 1 < e.toNat
  | _ => False

/-- Inversion of the dispatch: the selected operation's own condition holds. -/
theorem decodeOffer_offerCondition (c : Cursor) (e : TotalLength) (b : Byte) :
    (decodeOffer c e b).offerCondition c e := by
  rcases cursor_cases c e with h0 | h1 | h2 | h3 | ⟨h4, hover⟩ | ⟨h4, hlast⟩ | ⟨h4, hbody⟩
  · rw [decodeOffer_sync1 b h0]; exact h0
  · rw [decodeOffer_sync2 b h1]; exact h1
  · rw [decodeOffer_lenh b h2]; exact h2
  · rw [decodeOffer_lenl b h3]; exact h3
  · rw [decodeOffer_over b h4 hover]; exact ⟨h4, hover⟩
  · rw [decodeOffer_last b h4 hlast]; exact ⟨h4, hlast⟩
  · rw [decodeOffer_body b h4 hbody]; exact ⟨h4, hbody⟩

/-- Inversion of the dispatch at a known operation. -/
theorem offerCondition_of_decodeOffer {c : Cursor} {e : TotalLength} {b : Byte} {i : Instr} (h : decodeOffer c e b = i) :
    i.offerCondition c e := h ▸ decodeOffer_offerCondition c e b

/-- The third line of R90, both ways. -/
theorem decodeOffer_eq_offerLenh_iff (c : Cursor) (e : TotalLength) (b : Byte) :
    decodeOffer c e b = .offerLenh b ↔ c.toNat = 2 :=
  ⟨offerCondition_of_decodeOffer, decodeOffer_lenh b⟩

/-- The last line of R90, both ways. -/
theorem decodeOffer_eq_offerBody_iff (c : Cursor) (e : TotalLength) (b : Byte) :
    decodeOffer c e b = .offerBody b ↔ 4 ≤ c.toNat ∧ c.toNat + 1 < e.toNat :=
  ⟨offerCondition_of_decodeOffer, fun ⟨h4, hbody⟩ => decodeOffer_body b h4 hbody⟩

end Sys2Proof

namespace Sys2Proof.Machine

/-- The whole of R120: one store at slot 2, `cursor` 3, Pending. -/
theorem operate_offerLenh (b : Byte) (s : State) :
    operate (.offerLenh b) s = ((s.storeByte 2 b).setCursor 3).answer (.result .pending) := rfl

/-- The whole of R124 where it has a meaning: one store at `cursor`, `cursor` one on, Pending. -/
theorem operate_offerBody (b : Byte) {s : State} (he : s.expectedLength.toNat ≤ 32) (hc : s.cursor.toNat < 31) :
    operate (.offerBody b) s = ((s.stored b).setCursor (s.cursor + 1)).answer (.result .pending) :=
  if_pos ⟨he, Nat.succ_lt_succ hc⟩

/-- Settles O14: R120 stores at slot 2 and sets `cursor`, and the frame is what these two leave. -/
theorem offerLenhEffect : Obligations.OfferLenhEffect := by
  refine ⟨decodeOffer_eq_offerLenh_iff, fun b s => ?_⟩
  have hop := operate_offerLenh b s
  exact ⟨_, exec_of_operate hop, Memory.read_write s.buf 2 b, rfl, returns_of_operate hop, rfl, ⟨rfl, rfl⟩, rfl⟩

/-- Settles O18: below slot 31 of an accepted frame R124 is not refused, and `cursor + 1` does not wrap. -/
theorem offerBodyEffect : Obligations.OfferBodyEffect := by
  refine ⟨decodeOffer_eq_offerBody_iff, fun b s he hc => ?_⟩
  have hop := operate_offerBody b he hc
  exact ⟨_, exec_of_operate hop, Memory.read_write s.buf s.cursor.toNat b, cursor_succ_toNat hc, returns_of_operate hop,
    rfl, ⟨rfl, rfl⟩, rfl⟩

end Sys2Proof.Machine
end

section
/-! The family of 43_extract.md: the internal rows BE16, CLASSIFY, EXTRACT.PM and EXTRACT.BINS (R150 to R153), and what a
Success does to the six bins (R154). -/

namespace Sys2Proof

/-- No line of R90 has a condition for an internal operation. -/
theorem Instr.not_offerCondition_of_isInternal {i : Instr} (hi : i.isInternal = true) (c : Cursor) (e : TotalLength) :
    ¬ i.offerCondition c e := by
  cases i with
  | measure | chksum | be16 | classify | extractPm | extractBins => exact id
  | _ => cases hi

/-- R91: no dispatch selects an internal operation, neither by `rst` nor by an `offer`. -/
theorem decode_ne_of_isInternal {i : Instr} (hi : i.isInternal = true) (d : DispatchWord) : decode d ≠ .ok i := by
  intro h
  unfold decode at h
  split at h
  · cases h
    cases hi
  · split at h
    · exact Instr.not_offerCondition_of_isInternal hi _ _ (offerCondition_of_decodeOffer (Except.ok.inj h))
    · cases h

end Sys2Proof

namespace Sys2Proof.Machine

/-- The whole of R150 where the index is an operand of it: the value of the two slots, and no write. -/
theorem operate_be16 {i : Nat} (hi : i ≤ 30) (s : State) :
    operate (.be16 i) s = s.answer (.word (s.buf.readBe16 i)) :=
  if_pos (Nat.succ_lt_succ (Nat.lt_succ_of_le hi))

/-- The whole of R151: one write of `sensorVariant`. -/
theorem operate_classify (s : State) : operate .classify s = s.classify.answer .nothing := rfl

/-- The whole of R152: one write of the three primary fields. -/
theorem operate_extractPm (s : State) : operate .extractPm s = s.extractPm.answer .nothing := rfl

/-- The whole of R153: one write of the six bins. -/
theorem operate_extractBins (s : State) : operate .extractBins s = s.extractBins.answer .nothing := rfl

/-- Settles O32: a Success leaves what `decodeFrame` writes, and the total length decides which of the two it is. -/
theorem variantASuccessKeepsTheBins : Obligations.VariantASuccessKeepsTheBins := by
  intro b s t h hret
  obtain ⟨r, hr, hcase⟩ := offer_cases h
  obtain rfl : r = .success := by simpa [hr] using hret
  obtain rfl := hcase.eq_decodeFrame_of_success
  rw [State.decodeFrame_sensorVariant, State.decodeFrame_buf]
  by_cases hlen : ((s.stored b).setCursor 0).expectedLength.toNat = 32
  · exact .inr ⟨if_pos hlen, State.decodeFrame_fields_of_variantB _ hlen⟩
  · exact .inl ⟨if_neg hlen, State.decodeFrame_binsKept hlen⟩

/-- Settles O22: an index up to 30 has both slots in the buffer, and `readBe16` is their value. -/
theorem be16Effect : Obligations.Be16Effect := by
  refine ⟨fun d i => decode_ne_of_isInternal rfl d, fun i s hi => ?_⟩
  have hop := operate_be16 hi s
  exact ⟨exec_of_operate hop, _, returns_of_operate hop, s.buf.readBe16_toNat i⟩

/-- Settles O23: the one write is that of `sensorVariant`, by the test of R151. -/
theorem classifyEffect : Obligations.ClassifyEffect := by
  refine ⟨decode_ne_of_isInternal rfl, fun s => ?_⟩
  refine ⟨_, exec_of_operate (operate_classify s), returns_classify s, ?variantB, ?variantA, fun _ => rfl, rfl, rfl, rfl, rfl⟩
  case variantB => exact fun h => by simp [h]
  case variantA => exact fun h => by simp [h]

/-- Settles O24: the three writes are big-endian reads, and the frame is what `extractPm` leaves. -/
theorem extractPmEffect : Obligations.ExtractPmEffect := by
  refine ⟨decode_ne_of_isInternal rfl, fun s => ?_⟩
  have hread := s.buf.readBe16_toNat
  exact ⟨_, exec_of_operate (operate_extractPm s), returns_extractPm s, hread 4, hread 6, hread 8,
    ⟨rfl, rfl, rfl, rfl, rfl, rfl⟩, fun _ => rfl, rfl, rfl, rfl, rfl⟩

/-- Settles O25: the six writes are big-endian reads, and the frame is what `extractBins` leaves. -/
theorem extractBinsEffect : Obligations.ExtractBinsEffect := by
  refine ⟨decode_ne_of_isInternal rfl, fun s => ?_⟩
  have hread := s.buf.readBe16_toNat
  exact ⟨_, exec_of_operate (operate_extractBins s), returns_extractBins s, hread 16, hread 18, hread 20, hread 22, hread 24,
    hread 26, ⟨rfl, rfl, rfl⟩, fun _ => rfl, rfl, rfl, rfl, rfl⟩

end Sys2Proof.Machine
end

section
/-! The dispatch and its encoding (30_encoding.md section 5): the 32-bit word and the dispatch determine each other, decoding
undoes encoding, the opcode table selects what R90 selects, and a placed table word runs next. -/

namespace Sys2Proof

/-! ### The 32-bit word of a dispatch, bit by bit (log 4) -/

/-- The fields that log 4 lays out in the 32-bit word, by bit position. -/
theorem wordBit_cases {i : Nat} (hi : i < 32) : i < 5 ∨ 5 ≤ i ∧ i < 13 ∨ 13 ≤ i ∧ i < 30 ∨ i = 30 ∨ i = 31 := by omega

/-- The layout of log 4, one bit at a time. -/
theorem DispatchWord.pack_getLsbD (d : DispatchWord) {i : Nat} (hi : i < 32) :
    d.pack.getLsbD i =
      if i < 5 then d.cursor.getLsbD i
      else if i < 13 then d.inByte.getLsbD (i - 5)
      else if i < 30 then d.expectedLength.getLsbD (i - 13)
      else if i = 30 then d.rst else !d.inValid := by
  have hor : d.pack.getLsbD i = (d.cursor.getLsbD i || (!decide (i < 5) && d.inByte.getLsbD (i - 5)) ||
      (!decide (i < 13) && d.expectedLength.getLsbD (i - 13)) ||
      (!decide (i < 30) && (decide (i - 30 = 0) && d.rst)) || (!decide (i < 31) && (decide (i - 31 = 0) && !d.inValid))) := by
    simp [DispatchWord.pack, hi]
  rw [hor]
  rcases wordBit_cases hi with h | ⟨h, h'⟩ | ⟨h, h'⟩ | rfl | rfl
  · simp [h, show i < 13 by omega, show i < 30 by omega, show i < 31 by omega]
  · simp [h, h', show i < 30 by omega, show i < 31 by omega]
  · have h5 : 5 ≤ i := by omega
    have hcursor : d.cursor.getLsbD i = false := BitVec.getLsbD_of_ge _ _ h5
    have hbyte : d.inByte.getLsbD (i - 5) = false := BitVec.getLsbD_of_ge _ _ (by omega)
    simp [hcursor, hbyte, h', h.not_gt, h5.not_gt, show i < 31 by omega]
  · simp
  · simp

/-- Packing loses no field. -/
theorem DispatchWord.unpack_pack (d : DispatchWord) : DispatchWord.unpack d.pack = d := by
  have hrst : d.pack.getLsbD 30 = d.rst := d.pack_getLsbD (by decide)
  have hvalid : d.pack.getLsbD 31 = !d.inValid := d.pack_getLsbD (by decide)
  have hcursor : d.pack.extractLsb' 0 5 = d.cursor := by
    refine BitVec.eq_of_getLsbD_eq fun i hi => ?_
    rw [BitVec.getLsbD_extractLsb', d.pack_getLsbD (by omega), if_pos (by omega)]
    simp [hi]
  have hbyte : d.pack.extractLsb' 5 8 = d.inByte := by
    refine BitVec.eq_of_getLsbD_eq fun i hi => ?_
    rw [BitVec.getLsbD_extractLsb', d.pack_getLsbD (by omega), if_neg (by omega), if_pos (by omega)]
    simp [hi]
  have hlength : d.pack.extractLsb' 13 17 = d.expectedLength := by
    refine BitVec.eq_of_getLsbD_eq fun i hi => ?_
    rw [BitVec.getLsbD_extractLsb', d.pack_getLsbD (by omega), if_neg (by omega), if_neg (by omega), if_pos (by omega)]
    simp [hi]
  rw [DispatchWord.unpack, hrst, hvalid, hbyte, hcursor, hlength, Bool.not_not]

/-- Unpacking loses no bit. -/
theorem DispatchWord.pack_unpack (w : BitVec 32) : (DispatchWord.unpack w).pack = w := by
  refine BitVec.eq_of_getLsbD_eq fun i hi => ?_
  rw [DispatchWord.pack_getLsbD _ hi]
  simp only [DispatchWord.unpack, BitVec.getLsbD_extractLsb', Bool.not_not]
  rcases wordBit_cases hi with h | ⟨h, h'⟩ | ⟨h, h'⟩ | rfl | rfl
  · simp [h]
  · simp [h.not_gt, h', show i - 5 < 8 by omega, show 5 + (i - 5) = i by omega]
  · simp [h.not_gt, h', show ¬ i < 5 by omega, show i - 13 < 17 by omega, show 13 + (i - 13) = i by omega]
  · rfl
  · rfl

/-! ### The lines of R90, both ways -/

section lines
variable (c : Cursor) (e : TotalLength) (b : Byte)

/-- The second line. -/
theorem decodeOffer_eq_offerSync2_iff : decodeOffer c e b = .offerSync2 b ↔ c.toNat = 1 :=
  ⟨offerCondition_of_decodeOffer, decodeOffer_sync2 b⟩

/-- The fourth line. -/
theorem decodeOffer_eq_offerLenl_iff : decodeOffer c e b = .offerLenl b ↔ c.toNat = 3 :=
  ⟨offerCondition_of_decodeOffer, decodeOffer_lenl b⟩

/-- The fifth line. -/
theorem decodeOffer_eq_offerOver_iff : decodeOffer c e b = .offerOver b ↔ 4 ≤ c.toNat ∧ c.toNat + 1 > e.toNat :=
  ⟨offerCondition_of_decodeOffer, fun ⟨h4, hover⟩ => decodeOffer_over b h4 hover⟩

/-- The sixth line. -/
theorem decodeOffer_eq_offerLast_iff : decodeOffer c e b = .offerLast b ↔ 4 ≤ c.toNat ∧ c.toNat + 1 = e.toNat :=
  ⟨offerCondition_of_decodeOffer, fun ⟨h4, hlast⟩ => decodeOffer_last b h4 hlast⟩

end lines

/-! ### Decoding undoes encoding -/

/-- The dispatch that `encode` gives selects the operation, at every byte. -/
theorem decode_of_encode_eq_some {i : Instr} {d : DispatchWord} (h : encode i = some d) : decode d = .ok i := by
  cases i with
  | measure | chksum | be16 | classify | extractPm | extractBins => cases h
  | _ => cases h; rfl

/-- R91: the internal operations, and only they, have no encoding. -/
theorem encode_eq_none_iff (i : Instr) : encode i = none ↔ i.isInternal = true := by
  cases i <;> simp [encode, Instr.isInternal]

/-- The 32-bit word of a dispatch decodes to what the dispatch selects. -/
theorem decodeTableWord_pack {d : DispatchWord} {i : Instr} (h : decode d = .ok i) :
    decodeTableWord 32 d.pack.toNat = some i := by
  refine decodeTableWord_eq_some.mpr ⟨le_rfl, d.pack.isLt, ?_⟩
  rw [BitVec.ofNat_toNat, BitVec.setWidth_eq, d.unpack_pack, h]

/-- Settles O9: an operation that is not internal has an encoding, which decodes to it, and packing undoes unpacking. -/
theorem decodeOfEncodeIsTheOperation : Obligations.DecodeOfEncodeIsTheOperation := by
  refine ⟨fun i _ hi => ?_, encode_eq_none_iff, DispatchWord.unpack_pack, DispatchWord.pack_unpack⟩
  obtain ⟨d, hd⟩ : ∃ d, encode i = some d := by
    rw [← Option.ne_none_iff_exists', ne_eq, encode_eq_none_iff, hi]
    exact Bool.false_ne_true
  have hdec := decode_of_encode_eq_some hd
  exact ⟨d, d.pack, hd, hdec, by rw [encodeWord, hd, Option.map_some], decodeTableWord_pack hdec⟩

/-! ### The table's rendering of the dispatch (D15) -/

/-- A row whose mask has all five bits matches its own pattern only. -/
theorem OfferRow.selects_of_fullMask {r : OfferRow} (hm : r.mask = 0x1F) (c : Cursor) (e : TotalLength) :
    r.selects c e = (decide (c.toNat = r.pattern.toNat) && r.cond c.toNat e.toNat) := by
  have hall : c &&& 0x1F = c := BitVec.and_allOnes
  rw [OfferRow.selects, hm, hall, beq_eq_decide]
  simp only [BitVec.toNat_eq]

/-- A row whose mask and pattern are 0 matches by its condition alone. -/
theorem OfferRow.selects_of_emptyMask {r : OfferRow} (hm : r.mask = 0) (hp : r.pattern = 0) (c : Cursor) (e : TotalLength) :
    r.selects c e = r.cond c.toNat e.toNat := by
  have hzero : c &&& 0 = 0 := BitVec.and_zero
  rw [OfferRow.selects, hm, hp, hzero, beq_self_eq_true, Bool.true_and]

/-- Settles O8: at each line of R90 the first selected row is the row of that line. -/
theorem tableRenderingAgreesWithDispatch : Obligations.TableRenderingAgreesWithDispatch := by
  intro c e b
  simp only [decodeByTable, offerRows, List.find?_cons, OfferRow.selects_of_fullMask, OfferRow.selects_of_emptyMask]
  rcases cursor_cases c e with h | h | h | h | h4
  · simp [decodeOffer_sync1 b h, h]
  · simp [decodeOffer_sync2 b h, h]
  · simp [decodeOffer_lenh b h, h]
  · simp [decodeOffer_lenl b h, h]
  have h0 : c.toNat ≠ 0 := by omega
  have h1 : c.toNat ≠ 1 := by omega
  have h2 : c.toNat ≠ 2 := by omega
  have h3 : c.toNat ≠ 3 := by omega
  rcases h4 with ⟨h4, hover⟩ | ⟨h4, hlast⟩ | ⟨h4, hbody⟩
  · simp [decodeOffer_over b h4 hover, h0, h1, h2, h3, h4, Nat.le_of_lt_succ hover]
  · simp [decodeOffer_last b h4 hlast, h0, h1, h2, h3, h4, ← hlast]
  · simp [decodeOffer_body b h4 hbody, h0, h1, h2, h3, h4, hbody, hbody.ne, show ¬ e.toNat ≤ c.toNat by omega]

/-! ### Table words -/

/-- Settles O10: eight words of one row each, decoded. -/
theorem tableWordsDecode : Obligations.TableWordsDecode := by
  unfold Obligations.TableWordsDecode
  decide

/-- The four bytes of a header, by `cursor`, and the bytes after them. -/
theorem header_cases (n : Nat) : n = 0 ∨ n = 1 ∨ n = 2 ∨ n = 3 ∨ 4 ≤ n := by omega

/-- Below cursor 4 no line of R90 reads `expectedLength`. -/
theorem decode_with_expectedLength {d : DispatchWord} (h : d.cursor.toNat < 4) (e : TotalLength) :
    decode { d with expectedLength := e } = decode d := by
  have hoffer : decodeOffer d.cursor e d.inByte = decodeOffer d.cursor d.expectedLength d.inByte := by
    rcases header_cases d.cursor.toNat with hc | hc | hc | hc | hc
    · rw [decodeOffer_sync1 _ hc, decodeOffer_sync1 _ hc]
    · rw [decodeOffer_sync2 _ hc, decodeOffer_sync2 _ hc]
    · rw [decodeOffer_lenh _ hc, decodeOffer_lenh _ hc]
    · rw [decodeOffer_lenl _ hc, decodeOffer_lenl _ hc]
    · exact absurd h (Nat.not_lt.mpr hc)
  simp only [decode, hoffer]

/-- Settles O7: each case's condition selects it, and a selected case meets its own condition. -/
theorem dispatchConditions : Obligations.DispatchConditions := fun c e b =>
  ⟨decodeOffer_eq_offerSync1_iff c e b, decodeOffer_eq_offerSync2_iff c e b, decodeOffer_eq_offerLenh_iff c e b,
    decodeOffer_eq_offerLenl_iff c e b, decodeOffer_eq_offerOver_iff c e b, decodeOffer_eq_offerLast_iff c e b,
    decodeOffer_eq_offerBody_iff c e b⟩

end Sys2Proof

namespace Sys2Proof.Machine

/-- A step with a selected operation runs it on the state that took the sample. -/
theorem step_of_decode {s : State} {i : Instr} (h : decode s.dispatch = .ok i) : step s = exec i s.takeInput := by
  rw [step, h]

/-- The dispatch of a placed word is the word's own, but for an `expectedLength` that the dispatch does not read (log 10). -/
theorem decode_dispatch_placeWord (s : State) (nbits w : Nat) :
    decode (s.placeWord nbits w).dispatch = decode (.unpack (BitVec.ofNat 32 (w % 2 ^ nbits))) := by
  generalize hd : DispatchWord.unpack (BitVec.ofNat 32 (w % 2 ^ nbits)) = d
  have hdispatch : (s.placeWord nbits w).dispatch =
      { d with expectedLength := if 4 ≤ d.cursor.toNat then d.expectedLength else s.expectedLength } := by rw [← hd]; rfl
  rw [hdispatch]
  by_cases h4 : 4 ≤ d.cursor.toNat
  · rw [if_pos h4]
  · exact decode_with_expectedLength (by omega) _

/-- Settles O11: the placed state dispatches as the word decodes, and placing writes `cursor`, `expectedLength` and the samples
only. -/
theorem placedWordRunsNext : Obligations.PlacedWordRunsNext := by
  intro s nbits w i h
  obtain ⟨-, hw, hdec⟩ := decodeTableWord_eq_some.mp h
  refine ⟨step_of_decode ?_, rfl, fun _ => rfl, rfl, rfl⟩
  rw [State.withFetchWord, decode_dispatch_placeWord, Nat.mod_eq_of_lt hw, hdec]

end Sys2Proof.Machine
end

section
/-! The rules over every `offer` (10_state.md R25, R26; 20_memory.md R50; 60_exceptions.md R170, R179; 93_implementation_defined.md
U1), each read off the cases of one `offer`. -/

namespace Sys2Proof.Machine

namespace OfferCase
variable {b : Byte} {s t : State} {r : Result}

/-- The one store (R50), slot by slot. -/
theorem storedOnly (h : OfferCase b s t r) : StoredOnly s t s.cursor.toNat b := by
  intro k
  rw [h.buf_eq, Memory.read_write]

/-- Only the fourth byte writes `expectedLength` (R25). -/
theorem expectedLength_eq (h : OfferCase b s t r) (hc : s.cursor.toNat ≠ 3) : t.expectedLength = s.expectedLength := by
  cases h with
  | lenlTooLarge h3 | lenlFits h3 => exact absurd h3 hc
  | lastMatch => exact State.decodeFrame_expectedLength _
  | _ => rfl

/-- What the fourth byte writes (R121). -/
theorem expectedLength_toNat_of_fourth (h : OfferCase b s t r) (hc : s.cursor.toNat = 3) :
    t.expectedLength.toNat = 256 * (s.buf.read 2).toNat + b.toNat + 4 := by
  cases h with
  | lenlTooLarge | lenlFits => exact State.resolveLength_stored_toNat b hc
  | _ => omega

/-- A Success selects one of the two variants (R151). -/
theorem sensorVariant_ne_unknown_of_success (h : OfferCase b s t .success) : t.sensorVariant ≠ .unknown := by
  rw [h.eq_decodeFrame_of_success, State.decodeFrame_sensorVariant]
  split <;> simp

/-- An error result ends the attempt (R176). -/
theorem cursor_eq_zero_of_isError (h : OfferCase b s t r) (hr : r.isError = true) : t.cursor = 0 := by
  cases h with
  | lenlTooLarge | pastEnd | lastMismatch => rfl
  | _ => cases hr

/-- The exact cause of FrameTooLarge (R171). -/
theorem eq_frameTooLarge_iff (h : OfferCase b s t r) :
    r = .frameTooLarge ↔ s.cursor.toNat = 3 ∧ 256 * (s.buf.read 2).toNat + b.toNat + 4 > 32 := by
  cases h with
  | lenlTooLarge hc hlong => exact ⟨fun _ => ⟨hc, hlong⟩, fun _ => rfl⟩
  | _ => exact ⟨nofun, by omega⟩

/-- The exact cause of InvalidFrameLength (R173). -/
theorem eq_invalidFrameLength_iff (h : OfferCase b s t r) :
    r = .invalidFrameLength ↔ 4 ≤ s.cursor.toNat ∧ s.cursor.toNat + 1 > s.expectedLength.toNat := by
  cases h with
  | pastEnd hc hend => exact ⟨fun _ => ⟨hc, hend⟩, fun _ => rfl⟩
  | _ => exact ⟨nofun, by omega⟩

/-- The exact cause of Pending. -/
theorem eq_pending_iff (h : OfferCase b s t r) :
    r = .pending ↔ s.cursor.toNat ≤ 2 ∨ s.cursor.toNat = 3 ∧ 256 * (s.buf.read 2).toNat + b.toNat + 4 ≤ 32 ∨
      4 ≤ s.cursor.toNat ∧ s.cursor.toNat + 1 < s.expectedLength.toNat := by
  cases h with
  | sync1 hc | sync2 hc | lenh hc => exact ⟨fun _ => .inl (by omega), fun _ => rfl⟩
  | lenlFits hc hfits => exact ⟨fun _ => .inr (.inl ⟨hc, hfits⟩), fun _ => rfl⟩
  | body hc hinside => exact ⟨fun _ => .inr (.inr ⟨hc, hinside⟩), fun _ => rfl⟩
  | _ => exact ⟨nofun, by omega⟩

/-- Success is the answer to the last byte of a frame whose checksum, with that byte stored, is its sum (R123, R141). -/
theorem eq_success_iff (h : OfferCase b s t r) :
    r = .success ↔ 4 ≤ s.cursor.toNat ∧ s.cursor.toNat + 1 = s.expectedLength.toNat ∧
      checksumMatches t.buf s.expectedLength.toNat = true := by
  rw [h.buf_eq]
  cases h with
  | lastMatch hc hlast hm => exact ⟨fun _ => ⟨hc, hlast, hm⟩, fun _ => rfl⟩
  | lastMismatch hc hlast hm => exact ⟨nofun, fun ⟨_, _, hm'⟩ => absurd (hm.symm.trans hm') Bool.false_ne_true⟩
  | _ => exact ⟨nofun, by omega⟩

/-- ChecksumFailed is the answer to the last byte of a frame otherwise (R172). -/
theorem eq_checksumFailed_iff (h : OfferCase b s t r) :
    r = .checksumFailed ↔ 4 ≤ s.cursor.toNat ∧ s.cursor.toNat + 1 = s.expectedLength.toNat ∧
      ¬ checksumMatches t.buf s.expectedLength.toNat = true := by
  rw [h.buf_eq]
  cases h with
  | lastMatch hc hlast hm => exact ⟨nofun, fun ⟨_, _, hm'⟩ => absurd hm hm'⟩
  | lastMismatch hc hlast hm => exact ⟨fun _ => ⟨hc, hlast, Bool.eq_false_iff.mp hm⟩, fun _ => rfl⟩
  | _ => exact ⟨nofun, by omega⟩

end OfferCase

/-- Settles O29: the one store of every case. -/
theorem everyOfferStoresAtTheCursor : Obligations.EveryOfferStoresAtTheCursor := by
  intro b s t h
  obtain ⟨r, -, hcase⟩ := offer_cases h
  exact ⟨hcase.storedOnly, hcase.input_eq⟩

/-- Settles O33: the fourth byte's two cases resolve the length, and no other case writes it. -/
theorem expectedLengthWrittenOnlyByLenl : Obligations.ExpectedLengthWrittenOnlyByLenl := by
  intro b s t h
  obtain ⟨r, -, hcase⟩ := offer_cases h
  exact ⟨hcase.expectedLength_eq, hcase.expectedLength_toNat_of_fourth⟩

/-- Settles O34: a Success writes VariantA or VariantB, and what is no Success keeps the variant. -/
theorem variantNeverReturnsToUnknown : Obligations.VariantNeverReturnsToUnknown := by
  intro s t h hrst hv
  rcases step_cases h with ⟨hrst', -⟩ | ⟨-, -, rfl, -⟩ | ⟨-, -, r, -, hcase⟩
  · exact absurd (hrst.symm.trans hrst') Bool.false_ne_true
  · exact hv
  · by_cases hr : r = .success
    · subst hr
      exact hcase.sensorVariant_ne_unknown_of_success
    · rw [(hcase.outputsKept hr).1]
      exact hv

/-- Settles O35: the causes, each read off the cases; the checksum's as naturals (R141). -/
theorem resultsHaveTheirExactCauses : Obligations.ResultsHaveTheirExactCauses := by
  intro b s t h
  obtain ⟨r, hret, hcase⟩ := offer_cases h
  have hsum : 4 ≤ s.cursor.toNat → s.cursor.toNat + 1 = s.expectedLength.toNat →
      (checksumMatches t.buf s.expectedLength.toNat = true ↔ _) := fun _ _ => checksumMatches_iff t.buf (by omega)
  simp only [hret, Returned.result.injEq]
  refine ⟨hcase.eq_frameTooLarge_iff, hcase.eq_invalidFrameLength_iff, hcase.eq_success_iff.trans ?_,
    hcase.eq_checksumFailed_iff.trans ?_, hcase.eq_pending_iff⟩
  · exact and_congr_right fun h4 => and_congr_right fun hlast => hsum h4 hlast
  · exact and_congr_right fun h4 => and_congr_right fun hlast => not_congr (hsum h4 hlast)

/-- Settles O36: an error result is raised after the store, and the next `offer` starts from cursor 0. -/
theorem errorResultsOnlyResetTheCursor : Obligations.ErrorResultsOnlyResetTheCursor := by
  intro b s t r h hret herr
  obtain ⟨r', hret', hcase⟩ := offer_cases h
  obtain rfl : r = r' := by simpa [hret] using hret'
  have hzero := hcase.cursor_eq_zero_of_isError herr
  refine ⟨hzero, hcase.outputsKept (by rintro rfl; cases herr), hcase.storedOnly, ?kept, ?refused, ?idle⟩
  case kept =>
    refine fun hr => hcase.expectedLength_eq fun hc => ?_
    by_cases hfits : 256 * (s.buf.read 2).toNat + b.toNat + 4 ≤ 32
    · rw [hcase.eq_pending_iff.mpr (.inr (.inl ⟨hc, hfits⟩))] at herr
      cases herr
    · exact hr (hcase.eq_frameTooLarge_iff.mpr ⟨hc, Nat.lt_of_not_le hfits⟩)
  case refused =>
    rintro rfl
    obtain ⟨hc, hlong⟩ := hcase.eq_frameTooLarge_iff.mp rfl
    have hlen := hcase.expectedLength_toNat_of_fourth hc
    have hhi := (s.buf.read 2).isLt
    have hlo := b.isLt
    omega
  case idle => exact fun b' => decodeOffer_sync1 b' (by rw [hzero]; rfl)

/-- Settles O43: without `rst`, a byte on the ports is refused exactly where its case has no meaning. -/
theorem unreachableBodyIsRefused : Obligations.UnreachableBodyIsRefused := by
  intro s r
  constructor
  · intro h
    cases hrst : s.sample.rst with
    | true => rw [step_eq_construct hrst] at h; cases h
    | false =>
      cases hvalid : s.sample.inValid with
      | false => rw [step_eq_quiet hrst hvalid] at h; cases h
      | true =>
        rw [step_eq_offer hrst hvalid] at h
        by_cases hbody : 4 ≤ s.cursor.toNat ∧ 32 < s.expectedLength.toNat
        · rw [offer_refused _ s.takeInput hbody.1 hbody.2] at h
          cases h
          exact ⟨rfl, rfl, rfl, hbody⟩
        · obtain ⟨t, r', hnext, -⟩ := offer_next s.sample.inByte s.takeInput fun h4 => not_lt.mp fun h32 => hbody ⟨h4, h32⟩
          rw [hnext] at h
          cases h
  · rintro ⟨rfl, hrst, hvalid, h4, h32⟩
    rw [step_eq_offer hrst hvalid]
    exact offer_refused _ s.takeInput h4 h32

end Sys2Proof.Machine
end

section
/-! The invariant of 10_state.md R33: it holds after reset, every step keeps it, and within it every step completes. -/

namespace Sys2Proof.Machine

/-- The markers and item 4 of R33 say nothing of a state with `cursor` 0. -/
theorem StateInv.of_idle {t : State} (hc : t.cursor = 0) (hbuf : t.buf.wf)
    (hlen : t.expectedLength.toNat = 0 ∨ 4 ≤ t.expectedLength.toNat ∧ t.expectedLength.toNat ≤ 65539)
    (hfields : t.sensorVariant = .unknown → t.fields = Config.fieldReset) : StateInv t := by
  have hzero : t.cursor.toNat = 0 := by rw [hc]; rfl
  exact ⟨hbuf, by omega, by omega, hlen, by omega, by omega, by omega, hfields⟩

/-- Construction meets the invariant, whatever the environment drives later. -/
theorem StateInv.construct (s : State) : StateInv s.construct :=
  .of_idle rfl Memory.wf_nil (.inl rfl) fun _ => rfl

/-- The samples still to come take no part in the invariant. -/
theorem StateInv.takeInput {s : State} (h : StateInv s) : StateInv s.takeInput :=
  ⟨h.bufWf, h.marker0, h.marker1, h.lengthRange, h.lengthDeclared, h.lengthAccepted, h.cursorInside, h.unknownFields⟩

namespace OfferCase
variable {b : Byte} {s t : State} {r : Result}

/-- The two ways to a cursor from 4 on: an accepted fourth byte, or a byte inside an accepted frame. -/
theorem inside (h : OfferCase b s t r) (ht : 4 ≤ t.cursor.toNat) :
    (s.cursor.toNat = 3 ∧ 256 * (s.buf.read 2).toNat + b.toNat + 4 ≤ 32 ∧ t = (s.stored b).resolveLength.setCursor 4) ∨
    (4 ≤ s.cursor.toNat ∧ s.cursor.toNat + 1 < s.expectedLength.toNat ∧ s.expectedLength.toNat ≤ 32 ∧
      t = (s.stored b).setCursor (s.cursor + 1)) := by
  cases h with
  | lenlFits hc hfits => exact .inl ⟨hc, hfits, rfl⟩
  | body hc hinside h32 => exact .inr ⟨hc, hinside, h32, rfl⟩
  | sync1 | sync2 => rw [State.setCursor_cursor, apply_ite BitVec.toNat] at ht; split at ht <;> simp at ht
  | _ => simp at ht

/-- From idle only the first marker moves `cursor` (R110). -/
theorem eq_of_cursor_zero (h : OfferCase b s t r) (hc : s.cursor.toNat = 0) :
    r = .pending ∧ t = (s.stored b).setCursor (if b = 0x42 then 1 else 0) := by
  cases h with
  | sync1 => exact ⟨rfl, rfl⟩
  | _ => omega

/-- After the first marker only the second moves `cursor` on (R111). -/
theorem eq_of_cursor_one (h : OfferCase b s t r) (hc : s.cursor.toNat = 1) :
    r = .pending ∧ t = (s.stored b).setCursor (if b = 0x4D then 2 else 0) := by
  cases h with
  | sync2 => exact ⟨rfl, rfl⟩
  | _ => omega

/-- Item 2, first half: slot 0 is written at cursor 0 only, and only the marker leaves that cursor. -/
theorem marker0 (h : OfferCase b s t r) (hs : StateInv s) (ht : 1 ≤ t.cursor.toNat) : t.buf.read 0 = Config.sync0 := by
  rw [h.storedOnly 0]
  by_cases hc : s.cursor.toNat = 0
  · obtain ⟨-, rfl⟩ := h.eq_of_cursor_zero hc
    rw [if_pos hc.symm]
    by_contra hb
    rw [State.setCursor_cursor, if_neg hb] at ht
    exact absurd ht (by decide)
  · rw [if_neg (Ne.symm hc)]
    exact hs.marker0 (Nat.pos_of_ne_zero hc)

/-- Item 2, second half: slot 1 is written at cursor 1 only, and only the second marker goes on from there. -/
theorem marker1 (h : OfferCase b s t r) (hs : StateInv s) (ht : 2 ≤ t.cursor.toNat) : t.buf.read 1 = Config.sync1 := by
  rw [h.storedOnly 1]
  rcases (by omega : s.cursor.toNat = 0 ∨ s.cursor.toNat = 1 ∨ 2 ≤ s.cursor.toNat) with hc | hc | hc
  · obtain ⟨-, rfl⟩ := h.eq_of_cursor_zero hc
    rw [State.setCursor_cursor] at ht
    split at ht <;> simp at ht
  · obtain ⟨-, rfl⟩ := h.eq_of_cursor_one hc
    rw [if_pos hc.symm]
    by_contra hb
    rw [State.setCursor_cursor, if_neg hb] at ht
    exact absurd ht (by decide)
  · rw [if_neg (by omega)]
    exact hs.marker1 hc

/-- Item 3: the total length is the old one, or 4 more than a declared length. -/
theorem lengthRange (h : OfferCase b s t r) (hs : StateInv s) :
    t.expectedLength.toNat = 0 ∨ 4 ≤ t.expectedLength.toNat ∧ t.expectedLength.toNat ≤ 65539 := by
  by_cases hc : s.cursor.toNat = 3
  · have hlen := h.expectedLength_toNat_of_fourth hc
    have hhi := (s.buf.read 2).isLt
    have hlo := b.isLt
    omega
  · rw [h.expectedLength_eq hc]
    exact hs.lengthRange

/-- Item 6: a Success leaves Unknown, and nothing else writes the variant or a field. -/
theorem unknownFields (h : OfferCase b s t r) (hs : StateInv s) (ht : t.sensorVariant = .unknown) :
    t.fields = Config.fieldReset := by
  by_cases hr : r = .success
  · subst hr
    exact absurd ht h.sensorVariant_ne_unknown_of_success
  · obtain ⟨hvariant, hfields⟩ := h.outputsKept hr
    rw [hfields, hs.unknownFields (hvariant ▸ ht)]

/-- Item 4: the length in force was resolved from slots 2 and 3, which are not written from cursor 4 on. -/
theorem lengthDeclared (h : OfferCase b s t r) (hs : StateInv s) (ht : 4 ≤ t.cursor.toNat) :
    t.expectedLength = totalLength (declaredLength t.buf) := by
  rcases h.inside ht with ⟨-, -, rfl⟩ | ⟨hc, -, -, rfl⟩
  · rfl
  · have hkept : declaredLength (s.stored b).buf = declaredLength s.buf :=
      Memory.readBe16_congr (Memory.read_write_ne _ _ (by simp; omega)) (Memory.read_write_ne _ _ (by simp; omega))
    rw [State.setCursor_buf, hkept]
    exact hs.lengthDeclared hc

/-- Item 4: an attempt goes on only with a total length that fits the buffer, and only up to its last byte. -/
theorem inside_accepted (h : OfferCase b s t r) (ht : 4 ≤ t.cursor.toNat) :
    (4 ≤ t.expectedLength.toNat ∧ t.expectedLength.toNat ≤ 32) ∧
      (t.cursor.toNat = 4 ∨ t.cursor.toNat + 1 ≤ t.expectedLength.toNat) := by
  rcases h.inside ht with ⟨hc, hfits, rfl⟩ | ⟨hc, hinside, h32, rfl⟩
  · have hlen := State.resolveLength_stored_toNat b hc
    rw [State.setCursor_expectedLength]
    exact ⟨by omega, .inl rfl⟩
  · have hsucc := cursor_succ_toNat (c := s.cursor) (by omega)
    simp only [State.setCursor_expectedLength, State.setCursor_cursor, State.storeByte_expectedLength, hsucc]
    omega

/-- Every `offer` keeps the invariant. -/
theorem stateInv (h : OfferCase b s t r) (hs : StateInv s) : StateInv t where
  bufWf := by rw [h.buf_eq]; exact Memory.wf_write hs.bufWf s.cursor.isLt b
  marker0 := h.marker0 hs
  marker1 := h.marker1 hs
  lengthRange := h.lengthRange hs
  lengthDeclared := h.lengthDeclared hs
  lengthAccepted ht := (h.inside_accepted ht).1
  cursorInside ht := (h.inside_accepted ht).2
  unknownFields := h.unknownFields hs

end OfferCase

/-- Settles O40: the reset state is a constructed one. -/
theorem resetMeetsTheInvariant : Obligations.ResetMeetsTheInvariant := StateInv.construct .reset

/-- Settles O41: RESET constructs, a quiet step takes a sample only, and every case of `offer` keeps each item. -/
theorem everyStepKeepsTheInvariant : Obligations.EveryStepKeepsTheInvariant := by
  intro s t hs h
  rcases step_cases h with ⟨-, rfl, -⟩ | ⟨-, -, rfl, -⟩ | ⟨-, -, r, -, hcase⟩
  · exact StateInv.construct _
  · exact hs.takeInput
  · exact hcase.stateInv hs.takeInput

/-- Settles O42: item 4 excludes the states in which an `offer` is refused. -/
theorem everyStepCompletesWithinTheInvariant : Obligations.EveryStepCompletesWithinTheInvariant := by
  intro s hs
  have hok : 4 ≤ s.cursor.toNat → s.expectedLength.toNat ≤ 32 := fun h4 => (hs.lengthAccepted h4).2
  refine ⟨?step, fun b => ?offer⟩
  case step =>
    cases hrst : s.sample.rst with
    | true => exact ⟨_, step_eq_construct hrst⟩
    | false =>
      cases hvalid : s.sample.inValid with
      | false => exact ⟨_, step_eq_quiet hrst hvalid⟩
      | true =>
        obtain ⟨t, r, hnext, -⟩ := offer_next s.sample.inByte s.takeInput hok
        exact ⟨t, (step_eq_offer hrst hvalid).trans hnext⟩
  case offer =>
    obtain ⟨t, r, hnext, hret, -⟩ := offer_next b s hok
    exact ⟨t, r, hnext, hret⟩

/-- Settles O38: within the invariant `cursor` passes the total length only at cursor 4 with total length 4. -/
theorem invalidFrameLengthOnlyAfterLengthZero : Obligations.InvalidFrameLengthOnlyAfterLengthZero := by
  intro b s t hs h
  obtain ⟨r, hret, hcase⟩ := offer_cases h
  rw [hret, Returned.result.injEq, hcase.eq_invalidFrameLength_iff, ← BitVec.toNat_inj, ← BitVec.toNat_inj]
  have hlen : 4 ≤ s.cursor.toNat → s.expectedLength.toNat = 256 * (s.buf.read 2).toNat + (s.buf.read 3).toNat + 4 := by
    intro h4
    rw [hs.lengthDeclared h4, totalLength_declaredLength_toNat]
  have hinside := hs.cursorInside
  change _ ↔ s.cursor.toNat = 4 ∧ (s.buf.read 2).toNat = 0 ∧ (s.buf.read 3).toNat = 0
  omega

end Sys2Proof.Machine
end

section
/-! Reset, the input ports and the output ports (10_state.md R24, R32, R34; 60_exceptions.md R183; 30_encoding.md R92, R93). -/

namespace Sys2Proof.Machine

section ports
variable {s : State} {i : Instr}

/-- What a step with a selected operation returns is what the operation returns. -/
theorem stepReturns_of_decode (h : decode s.dispatch = .ok i) : stepReturns s = returns i s.takeInput := by
  rw [stepReturns, h]

/-- `rst` selects RESET, whatever else is on the ports. -/
theorem decode_dispatch_of_rst (h : s.sample.rst = true) : decode s.dispatch = .ok .reset := if_pos h

/-- A step that returns a result shows its code. -/
theorem State.resultPort_of_result {r : Result} (h : stepReturns s = .result r) : s.resultPort = some r.code := by
  rw [State.resultPort, h]

/-- A step that returns no result shows no code (log 17). -/
theorem State.resultPort_of_no_result (h : ∀ r, stepReturns s ≠ .result r) : s.resultPort = none := by
  rw [State.resultPort]
  cases hret : stepReturns s with
  | result r => exact absurd hret (h r)
  | nothing | check | word => rfl

/-- A step that returns nothing shows no code. -/
theorem State.resultPort_of_nothing (h : stepReturns s = .nothing) : s.resultPort = none :=
  State.resultPort_of_no_result fun r => by rw [h]; nofun

/-- `result_valid`, as a proposition (D1). -/
theorem State.resultValid_iff : s.resultValid = true ↔ s.sample.rst = false ∧ s.sample.inValid = true := by
  simp [State.resultValid]

/-- What a step returns depends on the buffer, `cursor`, `expectedLength` and the port sample alone. -/
theorem stepReturns_congr {s' : State} (hb : s.buf = s'.buf) (hc : s.cursor = s'.cursor)
    (he : s.expectedLength = s'.expectedLength) (hp : s.sample = s'.sample) : stepReturns s = stepReturns s' := by
  have hdispatch : s.dispatch = s'.dispatch := by rw [State.dispatch, State.dispatch, hc, he, hp]
  cases hd : decode s.dispatch with
  | ok i =>
    rw [stepReturns_of_decode hd, stepReturns_of_decode (hdispatch ▸ hd)]
    exact returns_congr i hb hc he
  | error => rw [stepReturns, stepReturns, ← hdispatch, hd]

end ports

/-- Settles O1: the reset values, each by its definition; an empty buffer reads 0. -/
theorem resetStateHoldsItsValues : Obligations.ResetStateHoldsItsValues :=
  ⟨Memory.read_nil, rfl, rfl, rfl, rfl, rfl⟩

/-- Settles O2: RESET leaves the constructed state. -/
theorem resetOperationConstructs : Obligations.ResetOperationConstructs := by
  intro s
  have hop : operate .reset s = s.construct.answer .nothing := rfl
  exact ⟨s.construct, exec_of_operate hop, Memory.read_nil, rfl, rfl, rfl, rfl, returns_of_operate hop, rfl⟩

/-- Settles O3: `rst` selects RESET before `in_valid` is looked at. -/
theorem rstPortOverridesOffer : Obligations.RstPortOverridesOffer := by
  intro s v b rest hinput
  have hrst : s.sample.rst = true := by simp [State.sample, hinput]
  have htake : s.takeInput = { s with input := rest } := by simp [State.takeInput, hinput]
  refine ⟨?_, ?_, stepReturns_of_rst hrst⟩
  · rw [step_of_decode (decode_dispatch_of_rst hrst), htake]
  · rw [step_eq_construct hrst, htake, State.construct]

/-- Settles O4: a quiet step takes its sample and does nothing else. -/
theorem quietStepChangesNothing : Obligations.QuietStepChangesNothing := fun _ hrst hvalid =>
  ⟨step_eq_quiet hrst hvalid, stepReturns_of_quiet hrst hvalid⟩

/-- Settles O5: `step` and `stepReturns` are the two projections of the decoded operation. -/
theorem stepRunsTheDecodedOperation : Obligations.StepRunsTheDecodedOperation := fun _ _ h =>
  ⟨step_of_decode h, stepReturns_of_decode h, rfl⟩

/-- Settles O6: the codes are those of the tables, and the `result` port shows what the step returns. -/
theorem outputPortCodes : Obligations.OutputPortCodes :=
  ⟨⟨rfl, rfl, rfl, rfl, rfl⟩, ⟨rfl, rfl, rfl⟩, fun _ =>
    ⟨rfl, rfl, rfl, fun _ => State.resultPort_of_result, State.resultPort_of_no_result⟩⟩

/-- Settles O39: a step returns a result exactly when it is an `offer`, from what its dispatch and operation read. -/
theorem resultIsAnOutputOfItsOwnStep : Obligations.ResultIsAnOutputOfItsOwnStep := by
  refine ⟨fun s t h => ⟨State.resultValid_iff, ?valid⟩, fun s s' hb hc he hp => ⟨?_, ?_⟩⟩
  case valid =>
    change s.resultValid = true ↔ ∃ r : Result, s.resultPort = some r.code
    rw [State.resultValid_iff]
    rcases step_cases h with ⟨hrst, -, hret⟩ | ⟨-, hvalid, -, hret⟩ | ⟨hrst, hvalid, r, hret, -⟩
    · simp [hrst, State.resultPort_of_nothing hret]
    · simp [hvalid, State.resultPort_of_nothing hret]
    · exact ⟨fun _ => ⟨r, State.resultPort_of_result hret⟩, fun _ => ⟨hrst, hvalid⟩⟩
  · change s.resultValid = s'.resultValid
    rw [State.resultValid, State.resultValid, hp]
  · change s.resultPort = s'.resultPort
    rw [State.resultPort, State.resultPort, stepReturns_congr hb hc he hp]

end Sys2Proof.Machine
end

section
/-! The operations one by one: OFFER.SYNC2 (40_sync.md), OFFER.LENL, OFFER.OVER and OFFER.LAST (41_length_buffer.md), MEASURE and
CHKSUM with the bounds of the sum (42_checksum.md). -/

namespace Sys2Proof.Machine

/-! ### The length -/

/-- Settles O27: the exact sum of R86. -/
theorem totalLengthIsExact : Obligations.TotalLengthIsExact := totalLength_declaredLength_toNat

/-- The total length that the fourth byte resolves, in any state. -/
theorem State.resolveLength_storeByte_toNat (s : State) (b : Byte) :
    (s.storeByte 3 b).resolveLength.expectedLength.toNat = 256 * (s.buf.read 2).toNat + b.toNat + 4 := by
  simp [totalLength_declaredLength_toNat, Memory.read_write]

section offers
variable (b : Byte) (s : State)

/-- The whole of R111: one store at slot 1, one move of `cursor`, Pending. -/
theorem operate_offerSync2 :
    operate (.offerSync2 b) s = ((s.storeByte 1 b).setCursor (if b = 0x4D then 2 else 0)).answer (.result .pending) := rfl

/-- The whole of R122: one store at `cursor`, `cursor` 0, InvalidFrameLength. -/
theorem operate_offerOver :
    operate (.offerOver b) s = ((s.stored b).setCursor 0).answer (.result .invalidFrameLength) := rfl

/-- The whole of R123: the store and `cursor` 0, and then it is MEASURE. -/
theorem operate_offerLast : operate (.offerLast b) s = operate .measure ((s.stored b).setCursor 0) := rfl

variable {b s} in
/-- R121 for a total above 32. -/
theorem operate_offerLenl_of_tooLarge (h : 32 < 256 * (s.buf.read 2).toNat + b.toNat + 4) :
    operate (.offerLenl b) s = ((s.storeByte 3 b).resolveLength.setCursor 0).answer (.result .frameTooLarge) :=
  if_pos (by rwa [exceedsCapacity_iff, State.resolveLength_storeByte_toNat])

variable {b s} in
/-- R121 for a total up to 32. -/
theorem operate_offerLenl_of_fits (h : 256 * (s.buf.read 2).toNat + b.toNat + 4 ≤ 32) :
    operate (.offerLenl b) s = ((s.storeByte 3 b).resolveLength.setCursor 4).answer (.result .pending) :=
  if_neg (by rwa [exceedsCapacity_iff, State.resolveLength_storeByte_toNat, not_lt])

end offers

/-- Settles O13: R111 stores at slot 1 and moves `cursor`, and the frame is what these two leave. -/
theorem offerSync2Effect : Obligations.OfferSync2Effect := by
  refine ⟨decodeOffer_eq_offerSync2_iff, fun b s => ?_⟩
  have hop := operate_offerSync2 b s
  exact ⟨_, exec_of_operate hop, Memory.read_write s.buf 1 b, fun hb => if_pos hb, fun hb => if_neg hb, returns_of_operate hop,
    rfl, ⟨rfl, rfl⟩, rfl⟩

/-- Settles O15: the length is resolved first, and then its size decides. -/
theorem offerLenlEffect : Obligations.OfferLenlEffect := by
  refine ⟨decodeOffer_eq_offerLenl_iff, fun b s => ?_⟩
  have hlen := State.resolveLength_storeByte_toNat s b
  have hread := Memory.read_write s.buf 3 b
  by_cases h : 256 * (s.buf.read 2).toNat + b.toNat + 4 ≤ 32
  · have hop := operate_offerLenl_of_fits h
    exact ⟨_, exec_of_operate hop, hread, hlen, fun hlong => absurd h (Nat.not_le.mpr hlong),
      fun _ => ⟨rfl, returns_of_operate hop⟩, ⟨rfl, rfl⟩, rfl⟩
  · have hop := operate_offerLenl_of_tooLarge (not_le.mp h)
    exact ⟨_, exec_of_operate hop, hread, hlen, fun _ => ⟨rfl, returns_of_operate hop⟩,
      fun hfits => absurd hfits h, ⟨rfl, rfl⟩, rfl⟩

/-- Settles O16: R122 stores at `cursor` and raises, and the frame is what these two leave. -/
theorem offerOverEffect : Obligations.OfferOverEffect := by
  refine ⟨decodeOffer_eq_offerOver_iff, fun b s => ?_⟩
  have hop := operate_offerOver b s
  exact ⟨_, exec_of_operate hop, Memory.read_write s.buf s.cursor.toNat b, rfl, returns_of_operate hop, rfl, ⟨rfl, rfl⟩, rfl⟩

/-! ### The measurement -/

section measurement
variable {s : State}

/-- R140 where the checksum matches. -/
theorem operate_measure_of_match (h2 : 2 ≤ s.expectedLength.toNat) (h32 : s.expectedLength.toNat ≤ 32)
    (hm : checksumMatches s.buf s.expectedLength.toNat = true) :
    operate .measure s = s.decodeFrame.answer (.result .success) := measureFrame_of_match h2 h32 hm

/-- R140 where it does not: nothing is written. -/
theorem operate_measure_of_mismatch (h2 : 2 ≤ s.expectedLength.toNat) (h32 : s.expectedLength.toNat ≤ 32)
    (hm : checksumMatches s.buf s.expectedLength.toNat = false) :
    operate .measure s = s.answer (.result .checksumFailed) := measureFrame_of_mismatch h2 h32 hm

/-- R141 where its reads lie in the buffer. -/
theorem operate_chksum (h2 : 2 ≤ s.expectedLength.toNat) (h32 : s.expectedLength.toNat ≤ 32) :
    operate .chksum s = s.answer (.check (checksumMatches s.buf s.expectedLength.toNat)) := if_pos ⟨h2, h32⟩

/-- Inversion of CHKSUM: where it returns a Boolean, its reads lie in the buffer. -/
theorem of_returns_chksum {ok : Bool} (h : returns .chksum s = .check ok) :
    2 ≤ s.expectedLength.toNat ∧ s.expectedLength.toNat ≤ 32 ∧ checksumMatches s.buf s.expectedLength.toNat = ok := by
  by_cases hin : checksumInBuffer s.expectedLength
  · obtain ⟨h2, h32⟩ := hin
    rw [returns_of_operate (operate_chksum h2 h32), Returned.check.injEq] at h
    exact ⟨h2, h32, h⟩
  · have hop : operate .chksum s = .error .bufferIndexOutOfRange := if_neg hin
    rw [returns, hop] at h
    cases h

/-- R140, steps 4 to 6 for VariantB. -/
theorem State.decodeFrame_of_variantB (h : s.classify.extractPm.sensorVariant = .variantB) :
    s.decodeFrame = s.classify.extractPm.extractBins := if_pos h

/-- R140, steps 4 to 6 otherwise. -/
theorem State.decodeFrame_of_not_variantB (h : s.classify.extractPm.sensorVariant ≠ .variantB) :
    s.decodeFrame = s.classify.extractPm := if_neg h

end measurement

/-- Settles O17: OFFER.LAST is MEASURE after the store and `cursor` 0, and MEASURE writes neither of the two. -/
theorem offerLastEffect : Obligations.OfferLastEffect := by
  refine ⟨decodeOffer_eq_offerLast_iff, fun b s h2 h32 => ?_⟩
  have hread := Memory.read_write s.buf s.cursor.toNat b
  cases hm : checksumMatches (s.stored b).buf s.expectedLength.toNat with
  | true =>
    have hop := operate_measure_of_match (s := (s.stored b).setCursor 0) h2 h32 hm
    refine ⟨_, exec_of_operate ((operate_offerLast b s).trans hop), exec_of_operate hop, rfl, ?_, ?_,
      .inl (returns_of_operate ((operate_offerLast b s).trans hop)), ?_, ?_⟩
    · simpa using hread
    · simp
    · simp
    · simp
  | false =>
    have hop := operate_measure_of_mismatch (s := (s.stored b).setCursor 0) h2 h32 hm
    exact ⟨_, exec_of_operate ((operate_offerLast b s).trans hop), exec_of_operate hop, rfl, hread, rfl,
      .inr ⟨returns_of_operate ((operate_offerLast b s).trans hop), rfl, rfl⟩, rfl, rfl⟩

/-- Settles O19: CHKSUM's Boolean selects the branch of R140, and the variant that CLASSIFY wrote decides on EXTRACT.BINS. -/
theorem measureRunsItsParts : Obligations.MeasureRunsItsParts := by
  refine ⟨decode_ne_of_isInternal rfl, fun b s => ⟨_, rfl, rfl, rfl⟩, fun s => ⟨fun h => ?mismatch, fun h => ?hit⟩⟩
  case mismatch =>
    obtain ⟨h2, h32, hm⟩ := of_returns_chksum h
    have hop := operate_measure_of_mismatch h2 h32 hm
    exact ⟨exec_of_operate hop, returns_of_operate hop⟩
  case hit =>
    obtain ⟨h2, h32, hm⟩ := of_returns_chksum h
    have hop := operate_measure_of_match h2 h32 hm
    have hmeasure := exec_of_operate hop
    refine ⟨returns_of_operate hop, _, _, exec_of_operate (operate_classify s), exec_of_operate (operate_extractPm _),
      fun hv => ⟨_, exec_of_operate (operate_extractBins _), ?_⟩, fun hv => ?_⟩
    · rw [hmeasure, State.decodeFrame_of_variantB hv]
    · rw [hmeasure, State.decodeFrame_of_not_variantB hv]

/-- Settles O20: a mismatch writes nothing, and a match leaves what `decodeFrame` writes. -/
theorem measureEffect : Obligations.MeasureEffect := by
  intro s h2 h32
  have hsum := checksumMatches_iff s.buf h2
  cases hm : checksumMatches s.buf s.expectedLength.toNat with
  | true =>
    have hop := operate_measure_of_match h2 h32 hm
    refine ⟨_, exec_of_operate hop, fun k => by rw [State.decodeFrame_buf], s.decodeFrame_cursor, s.decodeFrame_expectedLength,
      s.decodeFrame_input, fun hne => absurd (hsum.mp hm) hne, fun _ => ?_⟩
    obtain ⟨hpm1, hpm2, hpm10⟩ := s.decodeFrame_pm
    rw [State.decodeFrame_sensorVariant]
    exact ⟨returns_of_operate hop, hpm1, hpm2, hpm10, fun hA => ⟨if_neg hA, State.decodeFrame_binsKept hA⟩,
      fun hB => ⟨if_pos hB, State.decodeFrame_bins_of_variantB hB⟩⟩
  | false =>
    have hop := operate_measure_of_mismatch h2 h32 hm
    exact ⟨_, exec_of_operate hop, fun _ => rfl, rfl, rfl, rfl, fun _ => ⟨returns_of_operate hop, rfl, rfl⟩,
      fun heq => absurd (hsum.mpr heq) (Bool.eq_false_iff.mp hm)⟩

/-- Settles O21: CHKSUM answers its own state, and its Boolean is the comparison of naturals. -/
theorem chksumEffect : Obligations.ChksumEffect := by
  refine ⟨decode_ne_of_isInternal rfl, fun s h2 h32 => ?_⟩
  have hop := operate_chksum h2 h32
  exact ⟨exec_of_operate hop, _, returns_of_operate hop, checksumMatches_iff s.buf h2⟩

/-- Settles O26: the index or the total length is outside the guard of the operation. -/
theorem indexOutsideBufferIsRefused : Obligations.IndexOutsideBufferIsRefused := by
  refine ⟨fun i s hi => ?be16, fun b s hT => ?checksum⟩
  case be16 =>
    have hop : operate (.be16 i) s = .error .bufferIndexOutOfRange := if_neg (by simp only [pairInBuffer, Config.capacity]; omega)
    exact exec_of_error hop
  case checksum =>
    have hout : ¬ checksumInBuffer s.expectedLength := by
      simp only [checksumInBuffer, Config.cksumLen, Config.capacity]; omega
    have hchksum : operate .chksum s = .error .bufferIndexOutOfRange := if_neg hout
    have hmeasure : ∀ {u : State}, u.expectedLength = s.expectedLength → operate .measure u = .error .bufferIndexOutOfRange :=
      fun hu => if_neg (hu ▸ hout)
    exact ⟨exec_of_error hchksum, exec_of_error (hmeasure rfl), exec_of_error ((operate_offerLast b s).trans (hmeasure rfl))⟩

/-! ### The bounds of the sum (R143) -/

/-- `k` more bytes add at most 255 each. -/
theorem natSum_add_bounds (m : Memory) (n k : Nat) : natSum m n ≤ natSum m (n + k) ∧ natSum m (n + k) ≤ natSum m n + 255 * k := by
  induction k with
  | zero => simp
  | succ k ih =>
    have hbyte := (m.read (n + k)).isLt
    rw [← Nat.add_assoc, natSum_succ]
    omega

/-- The sum of the four bytes of a header (R84). -/
theorem natSum_header (m : Memory) :
    natSum m 4 = (m.read 0).toNat + (m.read 1).toNat + (m.read 2).toNat + (m.read 3).toNat := by
  simp only [natSum_succ, natSum_zero, Nat.zero_add]

/-- Settles O28: at most 30 bytes do not wrap, and of a frame's bytes the four of the header are known. -/
theorem checksumSumIsBounded : Obligations.ChecksumSumIsBounded := by
  refine ⟨fun m n hn => ?_, fun m T h6 h32 h0 h1 h2 h3 => ?_⟩
  · have hsum := sumBytes_toNat_of_le m hn
    have hle := natSum_le m n
    exact ⟨hsum, by omega⟩
  · have hheader : natSum m 4 = 0x42 + 0x4D + (T - 4) := by
      rw [natSum_header, h0, h1, h2, ← h3]
      rfl
    obtain ⟨hge, hle⟩ := natSum_add_bounds m 4 (T - 6)
    rw [sumBytes_toNat_of_le m (by omega), show T - 2 = 4 + (T - 6) by omega]
    omega

end Sys2Proof.Machine
end

section
/-! Byte streams (30_encoding.md R95 to R97; 10_state.md R31, R33 item 5): FEED as a run, the end of every attempt, what a stream
leaves in the slots, and what its results depend on. -/

namespace Sys2Proof.Machine

/-! ### FEED is the machine's run -/

/-- One step of a run that goes on. -/
theorem core_run_succ {s t : State} (h : step s = .next t) (k : Nat) :
    Host.Core.run core (k + 1) s = Host.Core.run core k t := by
  have hcore : core.step s = .next t := h
  simp only [Host.Core.run, hcore]

/-- FEED keeps the samples that the environment drives later. -/
theorem feed_input_eq {bs : List Byte} {s t : State} {rs : List Result} (h : feed bs s = some (rs, t)) : t.input = s.input := by
  induction bs generalizing s rs with
  | nil => cases h; rfl
  | cons b bs ih =>
    obtain ⟨u, r, rs', ho, -, hf, -⟩ := feed_cons_some h
    obtain ⟨_, -, hcase⟩ := offer_cases ho
    rw [ih hf, hcase.input_eq]

/-- Settles O44: by induction on the bytes, each step taking the next byte off the ports. -/
theorem feedIsTheMachinesRun : Obligations.FeedIsTheMachinesRun := by
  intro bs s t rs h
  refine ⟨?run, feed_length h, feed_input_eq h⟩
  induction bs generalizing s rs with
  | nil => cases h; rfl
  | cons b bs ih =>
    obtain ⟨u, r, rs', ho, -, hf, -⟩ := feed_cons_some h
    obtain ⟨_, -, hcase⟩ := offer_cases ho
    have hstep : step { s with input := (b :: bs).map PortInput.offer ++ s.input } =
        .next { u with input := bs.map PortInput.offer ++ u.input } := by
      rw [hcase.input_eq]
      exact step_of_offer_sample ho _
    exact (core_run_succ hstep bs.length).trans (ih u _ hf)

/-! ### One byte of a stream -/

/-- The total length fits wherever the dispatch reads it, so that no `offer` is refused (log 6): all of R33 that a stream needs
to go through. -/
def State.Accepted (s : State) : Prop := 4 ≤ s.cursor.toNat → s.expectedLength.toNat ≤ 32

theorem State.Accepted.of_idle {s : State} (hs : s.cursor = 0) : s.Accepted := by
  intro h4
  rw [hs] at h4
  cases h4

theorem StateInv.accepted {s : State} (hs : StateInv s) : s.Accepted := fun h4 => (hs.lengthAccepted h4).2

theorem OfferCase.accepted {b : Byte} {s t : State} {r : Result} (h : OfferCase b s t r) : t.Accepted :=
  fun h4 => (h.inside_accepted h4).1.2

/-- Every byte moves `cursor` one slot on, or ends the attempt (R23). -/
theorem cursor_zero_or_succ {b : Byte} {s t : State} (h : offer b s = .next t) :
    t.cursor.toNat = 0 ∨ t.cursor.toNat = s.cursor.toNat + 1 := by
  obtain ⟨h0, h1, h2, h3, h4⟩ := cursorMovesAsTheTable b s t h
  rcases header_cases s.cursor.toNat with hc | hc | hc | hc | hc
  · rw [h0 hc, hc]; split <;> simp
  · rw [h1 hc, hc]; split <;> simp
  · rw [h2 hc, hc]; simp
  · rw [h3 hc, hc]; split <;> simp
  · rw [h4 hc]; split <;> simp

theorem cursor_eq_zero_iff (c : Cursor) : c = 0 ↔ c.toNat = 0 := (BitVec.toNat_inj (y := (0 : Cursor))).symm

/-! ### The end of every attempt (R95) -/

/-- As many bytes as there are slots from `cursor` on bring the block to idle: each moves one slot on or ends the attempt. -/
theorem idle_within (bs : List Byte) {s : State} (hs : s.Accepted) (hlen : 32 ≤ s.cursor.toNat + bs.length) :
    ∃ k rs t, 1 ≤ k ∧ k ≤ bs.length ∧ feed (bs.take k) s = some (rs, t) ∧ t.cursor = 0 := by
  induction bs generalizing s with
  | nil =>
    have hlt := s.cursor.isLt
    simp only [List.length_nil] at hlen
    omega
  | cons b bs ih =>
    obtain ⟨t, r, ho, hr, hcase⟩ := offer_next b s hs
    rw [List.length_cons] at hlen ⊢
    rcases cursor_zero_or_succ ho with hzero | hsucc
    · exact ⟨1, [r], t, le_rfl, by omega, by rw [List.take_succ_cons, feed_cons ho hr]; rfl, (cursor_eq_zero_iff _).mpr hzero⟩
    · obtain ⟨k, rs, u, h1, hk, hf, hidle⟩ := ih hcase.accepted (by omega)
      exact ⟨k + 1, r :: rs, u, by omega, by omega, by rw [List.take_succ_cons, feed_cons ho hr, hf]; rfl, hidle⟩

/-- Settles O49: from idle 32 slots are left, and from an attempt in progress at most 31. -/
theorem everyAttemptEnds : Obligations.EveryAttemptEnds := by
  intro s bs hs hlen
  refine idle_within bs hs.accepted ?_
  by_cases hc : s.cursor = 0
  · rw [hlen, if_pos hc]; omega
  · have hpos := mt (cursor_eq_zero_iff s.cursor).mpr hc
    rw [hlen, if_neg hc]; omega

/-! ### What a stream leaves -/

theorem byteAt_append_left (as : List Byte) (b : Byte) {i : Nat} (hi : i < as.length) : byteAt (as ++ [b]) i = byteAt as i :=
  List.getD_append _ _ _ _ hi

theorem byteAt_append_length (as : List Byte) (b : Byte) : byteAt (as ++ [b]) as.length = b := by
  simp [byteAt]

/-- Settles O51: by induction on the stream from its end; the last byte is in the slot below the new `cursor`. -/
theorem slotsBelowTheCursorAreTheLastOffers : Obligations.SlotsBelowTheCursorAreTheLastOffers := by
  intro bs s t rs hidle h
  induction bs using List.reverseRecOn generalizing t rs with
  | nil =>
    cases h
    simp [hidle]
  | append_singleton bs b ih =>
    obtain ⟨rs', u, r, hf, ho, -, -⟩ := feed_snoc_some h
    obtain ⟨_, -, hcase⟩ := offer_cases ho
    obtain ⟨hle, hslots⟩ := ih u rs' hf
    rw [List.length_append, List.length_singleton]
    rcases cursor_zero_or_succ ho with hzero | hsucc
    · rw [hzero]
      exact ⟨Nat.zero_le _, fun i hi => absurd hi (Nat.not_lt_zero i)⟩
    · rw [hsucc]
      refine ⟨by omega, fun i hi => ?_⟩
      rw [hcase.storedOnly i, show bs.length + 1 - (u.cursor.toNat + 1) + i = bs.length - u.cursor.toNat + i by omega]
      by_cases hlast : i = u.cursor.toNat
      · rw [if_pos hlast, show bs.length - u.cursor.toNat + i = bs.length by omega, byteAt_append_length]
      · rw [if_neg hlast, hslots i (by omega), byteAt_append_left _ _ (by omega)]

/-- Settles O52: by induction on the stream from its end; only a Success writes the variant and the fields. -/
theorem unknownMeansNoSuccessYet : Obligations.UnknownMeansNoSuccessYet := by
  intro bs s t rs hunknown h
  induction bs using List.reverseRecOn generalizing t rs with
  | nil =>
    cases h
    simp [hunknown]
  | append_singleton bs b ih =>
    obtain ⟨rs', u, r, hf, ho, hr, rfl⟩ := feed_snoc_some h
    obtain ⟨r', hr', hcase⟩ := offer_cases ho
    obtain rfl : r = r' := by simpa [hr] using hr'
    obtain ⟨hiff, hfields⟩ := ih u rs' hf
    by_cases hsuccess : r = .success
    · subst hsuccess
      have hne := hcase.sensorVariant_ne_unknown_of_success
      simp [hne]
    · obtain ⟨hvariant, hkept⟩ := hcase.outputsKept hsuccess
      rw [hvariant, hkept, hiff]
      simp only [List.mem_append, List.mem_singleton, Ne.symm hsuccess, or_false, true_and]
      exact fun hno => hfields (hiff.mpr hno)

/-! ### Streams from idle -/

/-- R110 as one byte of a stream. -/
theorem offer_of_idle (b : Byte) {s : State} (hs : s.cursor = 0) :
    offer b s = .next ((s.stored b).setCursor (if b = 0x42 then 1 else 0)) ∧ offerReturns b s = .result .pending := by
  obtain ⟨t, r, ho, hr, hcase⟩ := offer_next b s (State.Accepted.of_idle hs)
  obtain ⟨rfl, rfl⟩ := hcase.eq_of_cursor_zero ((cursor_eq_zero_iff _).mp hs)
  exact ⟨ho, hr⟩

/-- Settles O53: by induction on the bytes, none of which leaves cursor 0. -/
theorem noiseWithoutTheMarkerIsIgnored : Obligations.NoiseWithoutTheMarkerIsIgnored := by
  intro bs s hnoise hs
  induction bs generalizing s with
  | nil => exact ⟨s, rfl, hs, rfl, rfl, rfl⟩
  | cons b bs ih =>
    rw [List.mem_cons, not_or] at hnoise
    obtain ⟨ho, hr⟩ := offer_of_idle b hs
    rw [if_neg (Ne.symm hnoise.1)] at ho
    obtain ⟨t, hf, hidle, hlen, houtputs⟩ := ih ((s.stored b).setCursor 0) hnoise.2 rfl
    exact ⟨t, by rw [feed_cons ho hr, hf]; rfl, hidle, hlen, houtputs⟩

/-- Settles O54: the rows of R23 for cursors 0 and 1 ask for the markers, and the other rows lead to 0 or from 3 on. -/
theorem synchronizesOnTheMarkerFromIdle : Obligations.SynchronizesOnTheMarkerFromIdle := by
  have hback : ∀ (b : Byte) (s t : State), offer b s = .next t →
      (t.cursor.toNat = 1 → s.cursor.toNat = 0 ∧ b = 0x42) ∧ (t.cursor.toNat = 2 → s.cursor.toNat = 1 ∧ b = 0x4D) := by
    intro b s t h
    obtain ⟨h0, h1, -⟩ := cursorMovesAsTheTable b s t h
    have hstep := cursor_zero_or_succ h
    refine ⟨fun ht => ?_, fun ht => ?_⟩
    · have hc : s.cursor.toNat = 0 := by omega
      refine ⟨hc, ?_⟩
      by_contra hb
      rw [h0 hc, if_neg hb] at ht
      cases ht
    · have hc : s.cursor.toNat = 1 := by omega
      refine ⟨hc, ?_⟩
      by_contra hb
      rw [h1 hc, if_neg hb] at ht
      cases ht
  refine ⟨fun s a b hs => ?_, hback⟩
  obtain ⟨ho, hr⟩ := offer_of_idle a hs
  generalize hu : (s.stored a).setCursor (if a = 0x42 then 1 else 0) = u at ho
  have hcursor : u.cursor.toNat = if a = 0x42 then 1 else 0 := by
    rw [← hu, State.setCursor_cursor, apply_ite BitVec.toNat]; rfl
  have hle : u.cursor.toNat ≤ 1 := by rw [hcursor]; split <;> simp
  obtain ⟨t, r, ho', hr', hcase⟩ := offer_next b u (by omega)
  obtain rfl := hcase.eq_pending_iff.mpr (.inl (by omega))
  refine ⟨t, by rw [feed_cons ho hr, feed_cons ho' hr']; rfl, fun ht => ?_, fun ⟨ha, hb⟩ => ?_⟩
  · obtain ⟨hu1, hb⟩ := (hback b u t ho').2 ht
    refine ⟨?_, hb⟩
    by_contra ha
    rw [hcursor, if_neg ha] at hu1
    cases hu1
  · obtain ⟨-, h1, -⟩ := cursorMovesAsTheTable b u t ho'
    rw [if_pos ha] at hcursor
    rw [h1 hcursor, if_pos hb]

/-! ### Results depend on the bytes alone (R31) -/

/-- Two states that no byte can tell apart: the same `cursor`, the same bytes below it, and past the fourth byte the same total
length, which fits. -/
structure SameAttempt (s s' : State) : Prop where
  cursor : s.cursor = s'.cursor
  slots : ∀ i < s.cursor.toNat, s.buf.read i = s'.buf.read i
  length : 4 ≤ s.cursor.toNat → s.expectedLength = s'.expectedLength
  accepted : s.Accepted

namespace SameAttempt
variable {b : Byte} {s s' t t' : State} {r r' : Result}

theorem of_idle (hs : s.cursor = 0) (hs' : s'.cursor = 0) : SameAttempt s s' where
  cursor := hs.trans hs'.symm
  slots i hi := by rw [hs] at hi; cases hi
  length h4 := by rw [hs] at h4; cases h4
  accepted := .of_idle hs

theorem accepted' (h : SameAttempt s s') : s'.Accepted := by
  intro h4
  rw [← h.cursor] at h4
  exact h.length h4 ▸ h.accepted h4

/-- After the same byte the two buffers agree on the frame up to that byte. -/
theorem stored (h : SameAttempt s s') (hcase : OfferCase b s t r) (hcase' : OfferCase b s' t' r') :
    ∀ i ≤ s.cursor.toNat, t.buf.read i = t'.buf.read i := by
  intro i hi
  rw [hcase.storedOnly i, hcase'.storedOnly i, ← h.cursor]
  by_cases hc : i = s.cursor.toNat
  · rw [if_pos hc, if_pos hc]
  · rw [if_neg hc, if_neg hc, h.slots i (by omega)]

/-- The same byte returns the same result: its exact cause reads only what the two states share. -/
theorem result_eq (h : SameAttempt s s') (hcase : OfferCase b s t r) (hcase' : OfferCase b s' t' r') : r' = r := by
  have hcur := congrArg BitVec.toNat h.cursor
  have hhi : s.cursor.toNat = 3 → s.buf.read 2 = s'.buf.read 2 := fun hc => h.slots 2 (by omega)
  cases r with
  | pending =>
    rw [hcase'.eq_pending_iff, ← hcur]
    rcases hcase.eq_pending_iff.mp rfl with hc | ⟨hc, hfits⟩ | ⟨hc, hinside⟩
    · exact .inl hc
    · exact .inr (.inl ⟨hc, hhi hc ▸ hfits⟩)
    · exact .inr (.inr ⟨hc, h.length hc ▸ hinside⟩)
  | success =>
    obtain ⟨hc, hlast, hm⟩ := hcase.eq_success_iff.mp rfl
    rw [hcase'.eq_success_iff, ← hcur, ← h.length hc,
      ← checksumMatches_congr (by omega) fun i hi => h.stored hcase hcase' i (by omega)]
    exact ⟨hc, hlast, hm⟩
  | frameTooLarge =>
    obtain ⟨hc, hlong⟩ := hcase.eq_frameTooLarge_iff.mp rfl
    rw [hcase'.eq_frameTooLarge_iff, ← hcur, ← hhi hc]
    exact ⟨hc, hlong⟩
  | checksumFailed =>
    obtain ⟨hc, hlast, hm⟩ := hcase.eq_checksumFailed_iff.mp rfl
    rw [hcase'.eq_checksumFailed_iff, ← hcur, ← h.length hc,
      ← checksumMatches_congr (by omega) fun i hi => h.stored hcase hcase' i (by omega)]
    exact ⟨hc, hlast, hm⟩
  | invalidFrameLength =>
    obtain ⟨hc, hend⟩ := hcase.eq_invalidFrameLength_iff.mp rfl
    rw [hcase'.eq_invalidFrameLength_iff, ← hcur, ← h.length hc]
    exact ⟨hc, hend⟩

/-- The same byte moves the two cursors alike (R23). -/
theorem cursor_eq (h : SameAttempt s s') (ho : offer b s = .next t) (ho' : offer b s' = .next t') : t.cursor = t'.cursor := by
  obtain ⟨h0, h1, h2, h3, h4⟩ := cursorMovesAsTheTable b s t ho
  obtain ⟨h0', h1', h2', h3', h4'⟩ := cursorMovesAsTheTable b s' t' ho'
  rw [← h.cursor] at h0' h1' h2' h3' h4'
  apply BitVec.eq_of_toNat_eq
  rcases header_cases s.cursor.toNat with hc | hc | hc | hc | hc
  · rw [h0 hc, h0' hc]
  · rw [h1 hc, h1' hc]
  · rw [h2 hc, h2' hc]
  · rw [h3 hc, h3' hc, h.slots 2 (by omega)]
  · rw [h4 hc, h4' hc, h.length hc]

/-- The same byte leaves states that no byte can tell apart. -/
theorem next (h : SameAttempt s s') (ho : offer b s = .next t) (ho' : offer b s' = .next t') (hcase : OfferCase b s t r)
    (hcase' : OfferCase b s' t' r') : SameAttempt t t' where
  cursor := h.cursor_eq ho ho'
  slots i hi := h.stored hcase hcase' i (by have := cursor_zero_or_succ ho; omega)
  length h4 := by
    by_cases hc : s.cursor.toNat = 3
    · have hc' : s'.cursor.toNat = 3 := by rw [← h.cursor, hc]
      apply BitVec.eq_of_toNat_eq
      rw [hcase.expectedLength_toNat_of_fourth hc, hcase'.expectedLength_toNat_of_fourth hc', h.slots 2 (by omega)]
    · have hc' : s'.cursor.toNat ≠ 3 := by rwa [← h.cursor]
      have hprev : 4 ≤ s.cursor.toNat := by have := cursor_zero_or_succ ho; omega
      rw [hcase.expectedLength_eq hc, hcase'.expectedLength_eq hc', h.length hprev]
  accepted := hcase.accepted

/-- Two streams of the same bytes from such states complete with the same results. -/
theorem feed_eq (bs : List Byte) (h : SameAttempt s s') :
    ∃ rs t t', feed bs s = some (rs, t) ∧ feed bs s' = some (rs, t') ∧ t.cursor = t'.cursor := by
  induction bs generalizing s s' with
  | nil => exact ⟨[], s, s', rfl, rfl, h.cursor⟩
  | cons b bs ih =>
    obtain ⟨u, r, ho, hr, hcase⟩ := offer_next b s h.accepted
    obtain ⟨u', r', ho', hr', hcase'⟩ := offer_next b s' h.accepted'
    obtain rfl := h.result_eq hcase hcase'
    obtain ⟨rs, t, t', hf, hf', hcursor⟩ := ih (h.next ho ho' hcase hcase')
    exact ⟨r' :: rs, t, t', by rw [feed_cons ho hr, hf]; rfl, by rw [feed_cons ho' hr', hf']; rfl, hcursor⟩

end SameAttempt

/-- Settles O48: two idle states differ in nothing that a byte can tell apart. -/
theorem resultsDependOnTheBytesAlone : Obligations.ResultsDependOnTheBytesAlone := fun bs _ _ hs hs' =>
  (SameAttempt.of_idle hs hs').feed_eq bs

end Sys2Proof.Machine
end

section
/-! One attempt from idle, byte by byte (41_length_buffer.md R120 to R126): what stands in the block after each byte of a
list that begins with the marker and a declared length, and how the attempt ends. -/

namespace Sys2Proof.Machine

/-- The bytes begin with the marker and a declared length of total `T` (R84, R86). -/
structure OpensWith (f : List Byte) (T : Nat) : Prop where
  marker0 : byteAt f 0 = 0x42
  marker1 : byteAt f 1 = 0x4D
  total : (be16 (byteAt f 2) (byteAt f 3)).toNat + 4 = T

theorem OpensWith.total_eq {f : List Byte} {T : Nat} (h : OpensWith f T) :
    256 * (byteAt f 2).toNat + (byteAt f 3).toNat + 4 = T := by rw [← h.total, be16_toNat]

/-- The header, written out. -/
theorem OpensWith.of_header {hi lo : Byte} {T : Nat} (h : 256 * hi.toNat + lo.toNat + 4 = T) (rest : List Byte) :
    OpensWith (0x42 :: 0x4D :: hi :: lo :: rest) T :=
  ⟨rfl, rfl, by rw [← h, ← be16_toNat]; rfl⟩

/-- `t` is where an attempt of total length `T` with the bytes `f`, begun in `s`, stands after `k` of them. -/
structure InAttempt (f : List Byte) (T : Nat) (s : State) (k : Nat) (t : State) : Prop where
  cursor : t.cursor.toNat = k
  slots : ∀ i, t.buf.read i = if i < k then byteAt f i else s.buf.read i
  length : 4 ≤ k → t.expectedLength.toNat = T
  outputs : OutputsKept s t

namespace InAttempt
variable {f : List Byte} {T k : Nat} {s t u : State} {r : Result}

theorem start (hs : s.cursor = 0) : InAttempt f T s 0 s where
  cursor := (cursor_eq_zero_iff _).mp hs
  slots i := by rw [if_neg (Nat.not_lt_zero i)]
  length h4 := by omega
  outputs := ⟨rfl, rfl⟩

theorem slot (h : InAttempt f T s k t) {i : Nat} (hi : i < k) : t.buf.read i = byteAt f i := by
  rw [h.slots, if_pos hi]

theorem accepted (h : InAttempt f T s k t) (hT : 4 ≤ k → T ≤ 32) : t.Accepted := by
  intro h4
  rw [h.cursor] at h4
  rw [h.length h4]
  exact hT h4

/-- The next byte of the bytes is stored after the ones before it. -/
theorem stored (h : InAttempt f T s k t) (hcase : OfferCase (byteAt f k) t u r) (i : Nat) :
    u.buf.read i = if i < k + 1 then byteAt f i else s.buf.read i := by
  rw [hcase.storedOnly i, h.cursor, h.slots i]
  by_cases hik : i = k
  · rw [if_pos hik, if_pos (by omega), hik]
  · rw [if_neg hik]
    exact if_congr (by omega) rfl rfl

/-- The total length is resolved by the fourth byte, and kept by the ones after it. -/
theorem length_next (ho : OpensWith f T) (h : InAttempt f T s k t) (hcase : OfferCase (byteAt f k) t u r) (h3 : 3 ≤ k) :
    u.expectedLength.toNat = T := by
  by_cases hk : k = 3
  · rw [hcase.expectedLength_toNat_of_fourth (h.cursor.trans hk), h.slot (by omega), hk, ho.total_eq]
  · rw [hcase.expectedLength_eq (by rw [h.cursor]; exact hk), h.length (by omega)]

/-- A byte that is not the last of the attempt returns Pending and moves `cursor` on. -/
theorem next (ho : OpensWith f T) (h : InAttempt f T s k t) (hk : k < 3 ∨ T ≤ 32 ∧ (k = 3 ∨ 4 ≤ k ∧ k + 1 < T)) :
    ∃ u, offer (byteAt f k) t = .next u ∧ offerReturns (byteAt f k) t = .result .pending ∧ InAttempt f T s (k + 1) u := by
  obtain ⟨u, r, hoffer, hret, hcase⟩ := offer_next (byteAt f k) t (h.accepted (by omega))
  have hhi : k = 3 → 256 * (t.buf.read 2).toNat + (byteAt f k).toNat + 4 = T := by
    rintro rfl
    rw [h.slot (by omega), ho.total_eq]
  have hlen := h.length
  obtain rfl := hcase.eq_pending_iff.mpr (by rw [h.cursor]; omega)
  obtain ⟨h0, h1, h2, h3, h4⟩ := cursorMovesAsTheTable _ t u hoffer
  rw [h.cursor] at h0 h1 h2 h3 h4
  refine ⟨u, hoffer, hret, ?_, h.stored hcase, fun hk' => h.length_next ho hcase (by omega), ?_⟩
  · rcases header_cases k with hc | hc | hc | hc | hc
    · rw [h0 hc, hc, if_pos ho.marker0]
    · rw [h1 hc, hc, if_pos ho.marker1]
    · rw [h2 hc, hc]
    · rw [h3 hc, hhi hc, if_pos (by omega), hc]
    · rw [h4 hc, hlen hc, if_pos (by omega)]
  · obtain ⟨hvariant, hfields⟩ := hcase.outputsKept (by simp)
    exact ⟨hvariant.trans h.outputs.1, hfields.trans h.outputs.2⟩

end InAttempt

theorem take_succ_byteAt {f : List Byte} {k : Nat} (hk : k < f.length) : f.take (k + 1) = f.take k ++ [byteAt f k] := by
  rw [List.take_succ_eq_append_getElem hk, byteAt, List.getD_eq_getElem _ _ hk]

/-- Every proper beginning of an attempt returns Pending only, one byte after the other. -/
theorem feed_inAttempt {f : List Byte} {T : Nat} {s : State} (ho : OpensWith f T) (hs : s.cursor = 0) {k : Nat}
    (hk : k ≤ 3 ∨ T ≤ 32 ∧ (k = 4 ∨ k < T)) (hlen : k ≤ f.length) :
    ∃ t, feed (f.take k) s = some (List.replicate k .pending, t) ∧ InAttempt f T s k t := by
  induction k with
  | zero => exact ⟨s, rfl, .start hs⟩
  | succ k ih =>
    obtain ⟨t, hf, hin⟩ := ih (by omega) (by omega)
    obtain ⟨u, hoffer, hret, hnext⟩ := hin.next ho (by omega)
    exact ⟨u, by rw [take_succ_byteAt (by omega), feed_snoc hf hoffer hret, List.replicate_succ'], hnext⟩

/-- The last byte of an attempt: of total length 4 the fifth, of every other the `T`-th. -/
theorem feed_last {f : List Byte} {T : Nat} {s : State} (ho : OpensWith f T) (hs : s.cursor = 0) (hT : T ≤ 32)
    {k : Nat} (hlast : k = 4 ∧ T ≤ 5 ∨ 4 ≤ k ∧ k + 1 = T) (hlen : f.length = k + 1) :
    ∃ t r u, feed f s = some (List.replicate k .pending ++ [r], u) ∧ InAttempt f T s k t ∧
      OfferCase (byteAt f k) t u r ∧ u.cursor = 0 := by
  have hT4 := ho.total
  obtain ⟨t, hf, hin⟩ := feed_inAttempt ho hs (k := k) (by omega) (by omega)
  obtain ⟨u, r, hoffer, hret, hcase⟩ := offer_next (byteAt f k) t (hin.accepted fun _ => hT)
  have hfeed := feed_snoc hf hoffer hret
  rw [← take_succ_byteAt (by omega), ← hlen, List.take_length] at hfeed
  obtain ⟨-, -, -, -, hmove⟩ := cursorMovesAsTheTable _ t u hoffer
  rw [hin.cursor, hin.length (by omega), if_neg (by omega)] at hmove
  exact ⟨t, r, u, hfeed, hin, hcase, (cursor_eq_zero_iff _).mpr (hmove (by omega))⟩

/-- Settles O50: the attempt goes on to its last byte, which is the fifth for total length 4, and ends there. -/
theorem attemptConsumesItsDeclaredLength : Obligations.AttemptConsumesItsDeclaredLength := by
  intro f s T hs h0 h1 htotal hT hlen
  have ho : OpensWith f T := ⟨h0, h1, htotal⟩
  have hbound : T = 4 ∧ f.length = 5 ∨ 4 < T ∧ f.length = T := by split at hlen <;> omega
  refine ⟨fun k hk => ?_, ?_⟩
  · obtain ⟨t, hf, hin⟩ := feed_inAttempt ho hs (k := k) (by omega) (by omega)
    exact ⟨t, hf, hin.cursor⟩
  · obtain ⟨t, r, u, hf, -, -, hidle⟩ := feed_last ho hs hT (k := f.length - 1) (by omega) (by omega)
    exact ⟨_, u, hf, hidle⟩

/-- Settles O55: after three bytes of the attempt the fourth resolves the length, which fits below 29. -/
theorem fourthByteRefusesLongFrames : Obligations.FourthByteRefusesLongFrames := by
  intro s hi lo hs
  have ho : OpensWith [0x42, 0x4D, hi, lo] (256 * hi.toNat + lo.toNat + 4) := .of_header rfl []
  obtain ⟨t, hf, hin⟩ := feed_inAttempt ho hs (k := 3) (by omega) (by simp)
  obtain ⟨u, r, hoffer, hret, hcase⟩ := offer_next lo t (hin.accepted (by omega))
  have hhi : t.buf.read 2 = hi := hin.slot (by omega)
  obtain ⟨-, -, -, hmove, -⟩ := cursorMovesAsTheTable lo t u hoffer
  have hcursor := hmove hin.cursor
  have hlong := hcase.eq_frameTooLarge_iff
  have hfits := hcase.eq_pending_iff
  rw [hhi] at hcursor hlong hfits
  rw [hin.cursor] at hlong hfits
  refine ⟨r, u, feed_snoc hf hoffer hret, ?outputs, fun h => ⟨hlong.mpr ⟨rfl, by omega⟩, ?_⟩,
    fun h => ⟨hfits.mpr (.inr (.inl ⟨rfl, by omega⟩)), ?_⟩⟩
  case outputs =>
    have hne : r ≠ .success := fun hr => by
      obtain ⟨h4, -⟩ := hcase.eq_success_iff.mp hr
      rw [hin.cursor] at h4
      omega
    obtain ⟨hvariant, hfields⟩ := hcase.outputsKept hne
    exact ⟨hvariant.trans hin.outputs.1, hfields.trans hin.outputs.2⟩
  · rw [if_neg (by omega)] at hcursor
    exact (cursor_eq_zero_iff _).mpr hcursor
  · rw [if_pos (by omega)] at hcursor
    exact BitVec.eq_of_toNat_eq hcursor

end Sys2Proof.Machine
end

section
/-! Whole frames from idle (30_encoding.md R85, R97; 42_checksum.md R144 to R146; 43_extract.md R155): an attempt of total length 5
or more ends in the measurement, and the checksum of its bytes decides. -/

namespace Sys2Proof.Machine

/-! ### The checksum of a byte list -/

/-- The last two bytes are the sum of the ones before them (R81, R87). -/
def ChecksumHolds (f : List Byte) : Prop :=
  (be16 (byteAt f (f.length - 2)) (byteAt f (f.length - 1))).toNat = byteSum (f.take (f.length - 2))

/-- The sum in the buffer is the sum of the bytes that the slots hold. -/
theorem natSum_eq_of_slots {m : Memory} {f : List Byte} {n : Nat} (hslots : ∀ i < n, m.read i = byteAt f i) (hn : n ≤ f.length) :
    natSum m n = ((f.take n).map BitVec.toNat).sum := by
  induction n with
  | zero => rfl
  | succ n ih =>
    rw [natSum_succ, ih (fun i hi => hslots i (by omega)) (by omega), hslots n (by omega), take_succ_byteAt hn]
    simp

/-- CHKSUM's test, on a buffer that holds a list of bytes, is the list's own checksum. -/
theorem checksumMatches_iff_of_slots {m : Memory} {f : List Byte} (h2 : 2 ≤ f.length)
    (hslots : ∀ i < f.length, m.read i = byteAt f i) : checksumMatches m f.length = true ↔ ChecksumHolds f := by
  rw [checksumMatches_iff m h2, natSum_eq_of_slots (f := f) (fun i hi => hslots i (by omega)) (by omega),
    hslots _ (by omega), hslots _ (by omega), ChecksumHolds, be16_toNat, byteSum, eq_comm]

/-! ### What the last byte of an attempt leaves -/

/-- What a Success with total length `T` leaves in `u`, with `old` the fields before it (R151 to R154). -/
structure Decoded (T : Nat) (old : DecodedFields) (u : State) : Prop where
  pm1_0 : u.fields.pm1_0 = u.buf.readBe16 4
  pm2_5 : u.fields.pm2_5 = u.buf.readBe16 6
  pm10 : u.fields.pm10 = u.buf.readBe16 8
  variantA : T ≠ 32 → u.sensorVariant = .variantA ∧ BinsKept old u.fields
  variantB : T = 32 → u.sensorVariant = .variantB ∧
    u.fields.bin0_3 = u.buf.readBe16 16 ∧ u.fields.bin0_5 = u.buf.readBe16 18 ∧ u.fields.bin1_0 = u.buf.readBe16 20 ∧
    u.fields.bin2_5 = u.buf.readBe16 22 ∧ u.fields.bin5_0 = u.buf.readBe16 24 ∧ u.fields.bin10 = u.buf.readBe16 26

theorem State.decodeFrame_decoded (s : State) : Decoded s.expectedLength.toNat s.fields s.decodeFrame := by
  obtain ⟨hpm1, hpm2, hpm10⟩ := s.decodeFrame_pm
  have hbuf := s.decodeFrame_buf
  refine ⟨by rw [hpm1, hbuf], by rw [hpm2, hbuf], by rw [hpm10, hbuf], fun hA => ?_, fun hB => ?_⟩
  · rw [s.decodeFrame_sensorVariant, if_neg hA]
    exact ⟨rfl, State.decodeFrame_binsKept hA⟩
  · rw [s.decodeFrame_sensorVariant, if_pos hB, hbuf]
    exact ⟨rfl, State.decodeFrame_bins_of_variantB hB⟩

theorem OfferCase.decoded {b : Byte} {s u : State} (h : OfferCase b s u .success) :
    Decoded s.expectedLength.toNat s.fields u := by
  rw [h.eq_decodeFrame_of_success]
  exact State.decodeFrame_decoded ((s.stored b).setCursor 0)

/-- `u` is what the bytes `f`, an attempt of their own length begun in `s`, leave when `r` is the last result. -/
structure Measured (f : List Byte) (s : State) (r : Result) (u : State) : Prop where
  idle : u.cursor = 0
  length : u.expectedLength.toNat = f.length
  slots : ∀ i, u.buf.read i = if i < f.length then byteAt f i else s.buf.read i
  success : ChecksumHolds f → r = .success ∧ Decoded f.length s.fields u
  failure : ¬ ChecksumHolds f → r = .checksumFailed ∧ OutputsKept s u

/-- An attempt of total length 5 to 32 ends in the measurement of its own bytes (R123, R140). -/
theorem feed_measured {f : List Byte} {s : State} (ho : OpensWith f f.length) (hs : s.cursor = 0) (h5 : 5 ≤ f.length)
    (h32 : f.length ≤ 32) : ∃ r u, feed f s = some (List.replicate (f.length - 1) .pending ++ [r], u) ∧ Measured f s r u := by
  obtain ⟨t, r, u, hf, hin, hcase, hidle⟩ :=
    feed_last ho hs h32 (k := f.length - 1) (.inr ⟨by omega, by omega⟩) (by omega)
  have hlen : t.expectedLength.toNat = f.length := hin.length (by omega)
  have hslots : ∀ i, u.buf.read i = if i < f.length then byteAt f i else s.buf.read i := by
    rw [← Nat.sub_add_cancel (by omega : 1 ≤ f.length)]
    exact hin.stored hcase
  have hsum : checksumMatches u.buf t.expectedLength.toNat = true ↔ ChecksumHolds f := by
    rw [hlen]
    exact checksumMatches_iff_of_slots (by omega) fun i hi => by rw [hslots, if_pos hi]
  have hlast : 4 ≤ t.cursor.toNat ∧ t.cursor.toNat + 1 = t.expectedLength.toNat := by rw [hin.cursor, hlen]; omega
  obtain ⟨hvariant, hfields⟩ := hin.outputs
  refine ⟨r, u, hf, hidle, ?_, hslots, fun hholds => ?_, fun hfails => ?_⟩
  · rw [hcase.expectedLength_eq (by omega), hlen]
  · obtain rfl := hcase.eq_success_iff.mpr ⟨hlast.1, hlast.2, hsum.mpr hholds⟩
    exact ⟨rfl, hlen ▸ hfields ▸ hcase.decoded⟩
  · obtain rfl := hcase.eq_checksumFailed_iff.mpr ⟨hlast.1, hlast.2, mt hsum.mp hfails⟩
    obtain ⟨hvariant', hfields'⟩ := hcase.outputsKept (by simp)
    exact ⟨rfl, hvariant'.trans hvariant, hfields'.trans hfields⟩

/-! ### Well-formed frames -/

theorem WellFormedFrame.opensWith {f : List Byte} (hf : WellFormedFrame f) : OpensWith f f.length :=
  ⟨hf.marker0, hf.marker1, hf.declared⟩

/-- A two-byte read of slots that hold the bytes of a list. -/
theorem Measured.readBe16 {f : List Byte} {s u : State} {r : Result} (h : Measured f s r u) {i : Nat} (hi : i + 1 < f.length) :
    u.buf.readBe16 i = be16 (byteAt f i) (byteAt f (i + 1)) := by
  rw [Memory.readBe16, h.slots, h.slots, if_pos (by omega), if_pos hi]

/-- Settles O46: the frame's checksum holds, so its last byte decodes the buffer, in which the frame stands. -/
theorem wellFormedFrameIsDecoded : Obligations.WellFormedFrameIsDecoded := by
  intro f s hf hs
  have h6 := hf.shortest
  obtain ⟨r, u, hfeed, hm⟩ := feed_measured hf.opensWith hs (by omega) hf.longest
  obtain ⟨rfl, hdec⟩ := hm.success hf.checksum
  have hread : ∀ {i}, i + 1 < f.length → u.buf.readBe16 i = be16 (byteAt f i) (byteAt f (i + 1)) := hm.readBe16
  refine ⟨u, hfeed, hm.idle, hm.length, hm.slots, ?_, hdec.pm2_5, hdec.pm10, hdec.variantA, fun hB => ?_⟩
  · rw [hdec.pm1_0, hread (by omega)]
  · obtain ⟨hv, h1, h2, h3, h4, h5, h6⟩ := hdec.variantB hB
    rw [h1, h2, h3, h4, h5, h6]
    exact ⟨hv, hread (by omega), hread (by omega), hread (by omega), hread (by omega), hread (by omega), hread (by omega)⟩

/-- Settles O37: an error result leaves the block idle, and from idle every well-formed frame is decoded. -/
theorem frameAfterAnErrorSucceeds : Obligations.FrameAfterAnErrorSucceeds := by
  intro b s t r f ho hret herr hf
  obtain ⟨r', hret', hcase⟩ := offer_cases ho
  obtain rfl : r = r' := by simpa [hret] using hret'
  obtain ⟨u, hfeed, hidle, -⟩ := wellFormedFrameIsDecoded f t hf (hcase.cursor_eq_zero_of_isError herr)
  exact ⟨u, hfeed, hidle⟩

/-! ### One corrupted byte (R144) -/

theorem byteAt_set_same {f : List Byte} {i : Nat} (hi : i < f.length) (v : Byte) : byteAt (f.set i v) i = v := by
  simp [byteAt, hi]

theorem byteAt_set_ne {f : List Byte} {i j : Nat} (h : i ≠ j) (v : Byte) : byteAt (f.set i v) j = byteAt f j := by
  simp [byteAt, h]

/-- Replacing one entry moves the sum by the difference. -/
theorem sum_set_add {l : List Nat} {i : Nat} (hi : i < l.length) (a : Nat) : (l.set i a).sum + l[i] = l.sum + a := by
  have hnew := List.sum_set l i a
  have hold := List.sum_set l i l[i]
  rw [if_pos hi] at hnew hold
  rw [List.set_getElem_self] at hold
  omega

/-- A byte other than the old one, anywhere in a frame, spoils its checksum: the sum moves by less than 256, or the checksum
field moves alone. -/
theorem not_checksumHolds_set {f : List Byte} {i : Nat} {v : Byte} (hf : ChecksumHolds f) (h2 : 2 ≤ f.length) (hi : i < f.length)
    (hv : v ≠ byteAt f i) : ¬ ChecksumHolds (f.set i v) := by
  have hne : v.toNat ≠ (byteAt f i).toNat := fun h => hv (BitVec.eq_of_toNat_eq h)
  have hold := (byteAt f i).isLt
  have hnew := v.isLt
  have hlo := (byteAt f (f.length - 1)).isLt
  unfold ChecksumHolds at hf ⊢
  rw [be16_toNat, byteSum] at hf ⊢
  rw [List.length_set, List.take_set]
  by_cases hbody : i < f.length - 2
  · have hsum := sum_set_add (l := (f.take (f.length - 2)).map BitVec.toNat) (i := i) (by simp; omega) v.toNat
    have hget : ((f.take (f.length - 2)).map BitVec.toNat)[i]'(by simp; omega) = (byteAt f i).toNat := by
      simp [byteAt, hi]
    rw [byteAt_set_ne (by omega), byteAt_set_ne (by omega), List.map_set]
    omega
  · rw [List.set_eq_of_length_le (l := f.take (f.length - 2)) (by simp; omega)]
    rcases (by omega : i = f.length - 2 ∨ i = f.length - 1) with hhi | hlast
    · rw [← hhi, byteAt_set_same hi, byteAt_set_ne (by omega)]
      rw [← hhi] at hf
      omega
    · rw [← hlast, byteAt_set_same hi, byteAt_set_ne (by omega)]
      rw [← hlast] at hf
      omega

/-- Settles O47: the header is as before, so the attempt is measured, and its checksum no longer holds. -/
theorem oneCorruptedByteIsDetected : Obligations.OneCorruptedByteIsDetected := by
  intro f s i v hf hs h4 hi hv
  have h6 := hf.shortest
  have h32 : f.length ≤ 32 := hf.longest
  have ho : OpensWith (f.set i v) (f.set i v).length := by
    obtain ⟨h0, h1, htotal⟩ := hf.opensWith
    constructor
    · rw [byteAt_set_ne (by omega), h0]
    · rw [byteAt_set_ne (by omega), h1]
    · rw [byteAt_set_ne (by omega), byteAt_set_ne (by omega), htotal, List.length_set]
  obtain ⟨r, u, hfeed, hm⟩ := feed_measured ho hs (by rw [List.length_set]; omega) (by rwa [List.length_set])
  obtain ⟨rfl, hkept⟩ := hm.failure (not_checksumHolds_set hf.checksum (by omega) hi hv)
  rw [List.length_set] at hfeed
  exact ⟨u, hfeed, hm.idle, hkept⟩

/-! ### The shortest attempts -/

/-- Settles O56: with total length 4 the fifth byte is past the end; with 5 the checksum field is the last length byte and it, at
least 256, and the sum of the bytes before is `0x8F`. -/
theorem lengthsZeroAndOneNeverSucceed : Obligations.LengthsZeroAndOneNeverSucceed := by
  intro s b hs
  constructor
  · have ho : OpensWith [0x42, 0x4D, 0, 0, b] 4 := .of_header rfl [b]
    obtain ⟨t, r, u, hf, hin, hcase, hidle⟩ := feed_last ho hs (by omega) (k := 4) (by omega) rfl
    have hlen := hin.length le_rfl
    obtain rfl := hcase.eq_invalidFrameLength_iff.mpr (by rw [hin.cursor, hlen]; omega)
    obtain ⟨hvariant, hfields⟩ := hcase.outputsKept (by simp)
    exact ⟨u, hf, hidle, hvariant.trans hin.outputs.1, hfields.trans hin.outputs.2⟩
  · have ho : OpensWith [0x42, 0x4D, 0, 1, b] 5 := .of_header rfl [b]
    have hfails : ¬ ChecksumHolds [0x42, 0x4D, 0, 1, b] := by
      change (be16 1 b).toNat ≠ 0x8F
      rw [be16_toNat]
      change 256 * 1 + b.toNat ≠ 0x8F
      omega
    obtain ⟨r, u, hf, hm⟩ := feed_measured ho hs le_rfl (by simp)
    obtain ⟨rfl, hkept⟩ := hm.failure hfails
    exact ⟨u, hf, hm.idle, hkept⟩

/-- Settles O57: the sum of the four bytes of the header is `0x91`, and slots 6 to 9 are the older ones. -/
theorem shortestFrameThatPasses : Obligations.ShortestFrameThatPasses := by
  intro s x y hs
  have ho : OpensWith [0x42, 0x4D, 0, 2, x, y] 6 := .of_header rfl [x, y]
  have hholds : ChecksumHolds [0x42, 0x4D, 0, 2, x, y] ↔ x = 0 ∧ y = 0x91 := by
    change (be16 x y).toNat = 0x91 ↔ _
    have hy := y.isLt
    rw [be16_toNat, ← BitVec.toNat_inj, ← BitVec.toNat_inj]
    change _ ↔ x.toNat = 0 ∧ y.toNat = 0x91
    omega
  obtain ⟨r, u, hf, hm⟩ := feed_measured ho hs (by simp) (by simp)
  refine ⟨r, u, hf, fun hxy => ?_, fun hxy => hm.failure (mt hholds.mp hxy)⟩
  obtain ⟨hr, hdec⟩ := hm.success (hholds.mpr hxy)
  have hvariant := hdec.variantA (by simp)
  have holder : ∀ {i}, 6 ≤ i → u.buf.readBe16 i = s.buf.readBe16 i := fun hi =>
    Memory.readBe16_congr (by rw [hm.slots, if_neg (by simp; omega)]) (by rw [hm.slots, if_neg (by simp; omega)])
  refine ⟨hr, hvariant.1, ?_, hdec.pm2_5.trans (holder le_rfl), hdec.pm10.trans (holder (by omega)), hvariant.2⟩
  rw [hdec.pm1_0, hm.readBe16 (by simp)]
  obtain ⟨rfl, rfl⟩ := hxy
  rfl

/-! ### FRAME (R97) -/

/-- `W(v)` is read back by BE16. -/
theorem be16_wordBytes (v : Word16) : be16 (v.extractLsb' 8 8) (v.extractLsb' 0 8) = v := by
  apply BitVec.eq_of_toNat_eq
  rw [be16_toNat, BitVec.extractLsb'_toNat, BitVec.extractLsb'_toNat]
  have := v.isLt
  simp only [Nat.shiftRight_eq_div_pow]
  omega

/-- What FRAME puts before the checksum: marker, declared length, body. -/
def frameHead (body : List Byte) : List Byte :=
  Config.sync0 :: Config.sync1 :: wordBytes (BitVec.ofNat 16 (body.length + Config.cksumLen)) ++ body

theorem frame_eq (body : List Byte) :
    frame body = frameHead body ++ wordBytes (BitVec.ofNat 16 (byteSum (frameHead body))) := rfl

theorem frameHead_length (body : List Byte) : (frameHead body).length = body.length + 4 := by
  simp [frameHead, wordBytes]

theorem frame_length (body : List Byte) : (frame body).length = body.length + 6 := by
  rw [frame_eq, List.length_append, frameHead_length]
  rfl

/-- The two bytes after the head are the checksum's. -/
theorem byteAt_append_wordBytes {l : List Byte} (v : Word16) :
    byteAt (l ++ wordBytes v) l.length = v.extractLsb' 8 8 ∧ byteAt (l ++ wordBytes v) (l.length + 1) = v.extractLsb' 0 8 := by
  simp [byteAt, wordBytes]

/-- R85 of FRAME: the length bytes and the checksum bytes are read back as they were written. -/
theorem frame_wellFormed {body : List Byte} (h : body.length ≤ 26) : WellFormedFrame (frame body) where
  shortest := by rw [frame_length]; omega
  longest := by rw [frame_length]; exact Nat.add_le_add_right h 6
  marker0 := rfl
  marker1 := rfl
  declared := by
    change (be16 (BitVec.extractLsb' 8 8 _) (BitVec.extractLsb' 0 8 _)).toNat + 4 = _
    rw [be16_wordBytes, BitVec.toNat_ofNat, frame_length, Config.cksumLen]
    omega
  checksum := by
    obtain ⟨hhi, hlo⟩ := byteAt_append_wordBytes (l := frameHead body) (BitVec.ofNat 16 (byteSum (frameHead body)))
    have hsum : byteSum (frameHead body) < 65536 := Nat.mod_lt _ (by decide)
    rw [frameHead_length] at hhi hlo
    rw [frame_length, frame_eq, show body.length + 6 - 2 = body.length + 4 by omega,
      show body.length + 6 - 1 = body.length + 4 + 1 by omega, hhi, hlo, be16_wordBytes, ← frameHead_length,
      List.take_left, BitVec.toNat_ofNat]
    omega

/-- Settles O45: FRAME writes the four bytes of the header, the body, and the checksum of both. -/
theorem frameOfABodyIsWellFormed : Obligations.FrameOfABodyIsWellFormed := by
  refine fun body h => ⟨frame_wellFormed h, frame_length body, fun i hi => ?_⟩
  rw [Nat.add_comm]
  exact List.getD_append body (wordBytes (BitVec.ofNat 16 (byteSum (frameHead body)))) 0 i hi

end Sys2Proof.Machine
end
